-- ==== Sys2Proof/Word.lean ====
section
/-! DEFINITION. The word types of the machine: a byte of memory or a general register, a 16-bit word
(program counter, index register, stack slot, instruction word), and a register number. -/

namespace Sys2Proof

/-- An unsigned 8-bit value: a memory cell or a general register (rules R11, R30). -/
abbrev Byte := BitVec 8

/-- An unsigned 16-bit value: an instruction word, `pc`, `I` or a stack slot (rules R13, R14, R15, R45). -/
abbrev Word := BitVec 16

/-- The number of a general register, `0x0`-`0xF` (rule R11). -/
abbrev RegNum := Fin 16

/-- `VF`, the register six instructions also write as a flag (rule R12). -/
abbrev VF : RegNum := 15

end Sys2Proof
end

