-- ==== Sys2Proof/Config.lean ====
section
/-! DEFINITION. The fixed parameters of the hardware (rule R5) and its one free value, the random byte.
The shapes of the registers, the stack and the framebuffer stand in the types of Machine/State.lean, and
the parameter `FONT` with its default in Machine/Font.lean. -/

namespace Sys2Proof

/-- `MEM_SIZE`: bytes of memory, addresses `0x000`-`0xFFF` (rules R5, R30). -/
@[simp] abbrev Config.memSize : Nat := 4096

/-- `PROG_BASE`: where `LOAD` puts an image, and the reset value of `pc` (rules R5, R31). -/
@[simp] abbrev Config.progBase : Nat := 0x200

/-- `MAX_PROG`: the longest image `LOAD` accepts, in bytes (rules R5, R124). -/
@[simp] abbrev Config.maxProg : Nat := 3584

/-- `GLYPH_STRIDE`: bytes of one font glyph (rules R5, R113). -/
@[simp] abbrev Config.glyphStride : Nat := 5

/-- The random byte of the `n`-th `STEP` where the host has handed none over: a FREE VALUE. The spec
makes `rnd` an input under no law (rules R7, R68, R82; decision D15), so nothing constrains this
function and no proof can learn a value of it. DESIGN CHOICE, safe, log 1. -/
opaque Config.randomByte : Nat → Byte

end Sys2Proof
end

