-- ==== Sys2Proof/Syntax.lean ====
section
/-! DEFINITION. The instruction set: one constructor per row of the opcode map (rule R50), in its order.
A register operand is a register number; `nn` is a byte; `nnn` (an address) and `n` (a row count) are
natural numbers whose range WellFormed.lean checks. -/

namespace Sys2Proof

/-- The 34 instructions of rule R50. -/
inductive Instr where
  /-- `00E0` -/
  | cls
  /-- `00EE` -/
  | ret
  /-- `1NNN` -/
  | jp (nnn : Nat)
  /-- `2NNN` -/
  | call (nnn : Nat)
  /-- `3XNN` -/
  | seImm (x : RegNum) (nn : Byte)
  /-- `4XNN` -/
  | sneImm (x : RegNum) (nn : Byte)
  /-- `5XY0` -/
  | seReg (x y : RegNum)
  /-- `6XNN` -/
  | ldImm (x : RegNum) (nn : Byte)
  /-- `7XNN` -/
  | addImm (x : RegNum) (nn : Byte)
  /-- `8XY0` -/
  | ldReg (x y : RegNum)
  /-- `8XY1` -/
  | orReg (x y : RegNum)
  /-- `8XY2` -/
  | andReg (x y : RegNum)
  /-- `8XY3` -/
  | xorReg (x y : RegNum)
  /-- `8XY4` -/
  | addReg (x y : RegNum)
  /-- `8XY5` -/
  | sub (x y : RegNum)
  /-- `8XY6`; the field `y` is encoded and unused (rule R48) -/
  | shr (x y : RegNum)
  /-- `8XY7` -/
  | subn (x y : RegNum)
  /-- `8XYE`; the field `y` is encoded and unused (rule R48) -/
  | shl (x y : RegNum)
  /-- `9XY0` -/
  | sneReg (x y : RegNum)
  /-- `ANNN` -/
  | ldI (nnn : Nat)
  /-- `BNNN` -/
  | jpV0 (nnn : Nat)
  /-- `CXNN` -/
  | rnd (x : RegNum) (nn : Byte)
  /-- `DXYN` -/
  | drw (x y : RegNum) (n : Nat)
  /-- `EX9E` -/
  | skp (x : RegNum)
  /-- `EXA1` -/
  | sknp (x : RegNum)
  /-- `FX07` -/
  | ldVxDt (x : RegNum)
  /-- `FX0A` -/
  | ldVxK (x : RegNum)
  /-- `FX15` -/
  | ldDtVx (x : RegNum)
  /-- `FX18` -/
  | ldStVx (x : RegNum)
  /-- `FX1E` -/
  | addI (x : RegNum)
  /-- `FX29` -/
  | ldF (x : RegNum)
  /-- `FX33` -/
  | ldB (x : RegNum)
  /-- `FX55` -/
  | ldMemVx (x : RegNum)
  /-- `FX65` -/
  | ldVxMem (x : RegNum)
  deriving DecidableEq, Repr

end Sys2Proof
end

