-- ==== Sys2Proof/WellFormed.lean ====
section
/-! DEFINITION. Which instruction terms the encoding admits. Register numbers and bytes are in range by
their types; an address must fit 12 bits and a row count 4 bits (rules R46, R48). -/

namespace Sys2Proof

/-- `NNN` is a 12-bit value (rule R48). -/
abbrev Instr.addressFits (nnn : Nat) : Bool := decide (nnn ≤ 0xFFF)

/-- `N` is a row count 0..15 (rule R48). -/
abbrev Instr.rowCountFits (n : Nat) : Bool := decide (n ≤ 15)

/-- The operands fit the fields that encode them (rules R46, R48). -/
def Instr.wellFormed : Instr → Bool
  | .cls => true
  | .ret => true
  | .jp nnn => Instr.addressFits nnn
  | .call nnn => Instr.addressFits nnn
  | .seImm _ _ => true
  | .sneImm _ _ => true
  | .seReg _ _ => true
  | .ldImm _ _ => true
  | .addImm _ _ => true
  | .ldReg _ _ => true
  | .orReg _ _ => true
  | .andReg _ _ => true
  | .xorReg _ _ => true
  | .addReg _ _ => true
  | .sub _ _ => true
  | .shr _ _ => true
  | .subn _ _ => true
  | .shl _ _ => true
  | .sneReg _ _ => true
  | .ldI nnn => Instr.addressFits nnn
  | .jpV0 nnn => Instr.addressFits nnn
  | .rnd _ _ => true
  | .drw _ _ n => Instr.rowCountFits n
  | .skp _ => true
  | .sknp _ => true
  | .ldVxDt _ => true
  | .ldVxK _ => true
  | .ldDtVx _ => true
  | .ldStVx _ => true
  | .addI _ => true
  | .ldF _ => true
  | .ldB _ => true
  | .ldMemVx _ => true
  | .ldVxMem _ => true

end Sys2Proof
end

