-- ==== Sys2Proof/Decode.lean ====
section
/-! DEFINITION. From bytes to an instruction and back: the field extractions (rule R46), the decode
procedure (rule R49), the encoder written from the formats (rules R47, R50), and the opcode map's
mask and match columns (rule R50). -/

namespace Sys2Proof

/-! ## Fields (rule R46) -/

/-- `G = word[15:12]`, the instruction group. -/
def fieldG (w : Word) : Nat := (w.extractLsb' 12 4).toNat

/-- `X = (word & 0x0F00) >> 8`. -/
def fieldX (w : Word) : RegNum := (w.extractLsb' 8 4).toFin

/-- `Y = (word & 0x00F0) >> 4`. -/
def fieldY (w : Word) : RegNum := (w.extractLsb' 4 4).toFin

/-- `N = word & 0x000F`. -/
def fieldN (w : Word) : Nat := (w.extractLsb' 0 4).toNat

/-- `NN = word & 0x00FF`. -/
def fieldNN (w : Word) : Byte := w.extractLsb' 0 8

/-- `NNN = word & 0x0FFF`. -/
def fieldNNN (w : Word) : Nat := (w.extractLsb' 0 12).toNat

/-! ## Decode (rule R49) -/

/-- Why bytes are no instruction. -/
inductive Reject where
  /-- fewer than two bytes: every instruction is two bytes long (rule R45) -/
  | tooShort
  /-- the word matches no row of the opcode map (rule R51) -/
  | unknownOpcode
  deriving DecidableEq, Repr

/-- Group `0x0`: literal full matches only. -/
def decodeGroup0 (w : Word) : Except Reject Instr :=
  if w = 0x00E0#16 then .ok .cls
  else if w = 0x00EE#16 then .ok .ret
  else .error .unknownOpcode

/-- Group `0x8`: the sub-operation is the bottom 4 bits. -/
def decodeGroup8 (x y : RegNum) (n : Nat) : Except Reject Instr :=
  if n = 0x0 then .ok (.ldReg x y)
  else if n = 0x1 then .ok (.orReg x y)
  else if n = 0x2 then .ok (.andReg x y)
  else if n = 0x3 then .ok (.xorReg x y)
  else if n = 0x4 then .ok (.addReg x y)
  else if n = 0x5 then .ok (.sub x y)
  else if n = 0x6 then .ok (.shr x y)
  else if n = 0x7 then .ok (.subn x y)
  else if n = 0xE then .ok (.shl x y)
  else .error .unknownOpcode

/-- Group `0xE`: the sub-operation is the bottom 8 bits. -/
def decodeGroupE (x : RegNum) (nn : Byte) : Except Reject Instr :=
  if nn = 0x9E#8 then .ok (.skp x)
  else if nn = 0xA1#8 then .ok (.sknp x)
  else .error .unknownOpcode

/-- Group `0xF`: the sub-operation is the bottom 8 bits. -/
def decodeGroupF (x : RegNum) (nn : Byte) : Except Reject Instr :=
  if nn = 0x07#8 then .ok (.ldVxDt x)
  else if nn = 0x0A#8 then .ok (.ldVxK x)
  else if nn = 0x15#8 then .ok (.ldDtVx x)
  else if nn = 0x18#8 then .ok (.ldStVx x)
  else if nn = 0x1E#8 then .ok (.addI x)
  else if nn = 0x29#8 then .ok (.ldF x)
  else if nn = 0x33#8 then .ok (.ldB x)
  else if nn = 0x55#8 then .ok (.ldMemVx x)
  else if nn = 0x65#8 then .ok (.ldVxMem x)
  else .error .unknownOpcode

/-- `decode(word)` of rule R49: a function of the word alone (rule R52). All sixteen groups are
defined, so the last arm only completes the match over `Nat` (conflict C10). -/
def decodeWord (w : Word) : Except Reject Instr :=
  match fieldG w with
  | 0x0 => decodeGroup0 w
  | 0x1 => .ok (.jp (fieldNNN w))
  | 0x2 => .ok (.call (fieldNNN w))
  | 0x3 => .ok (.seImm (fieldX w) (fieldNN w))
  | 0x4 => .ok (.sneImm (fieldX w) (fieldNN w))
  | 0x5 => if fieldN w = 0x0 then .ok (.seReg (fieldX w) (fieldY w)) else .error .unknownOpcode
  | 0x6 => .ok (.ldImm (fieldX w) (fieldNN w))
  | 0x7 => .ok (.addImm (fieldX w) (fieldNN w))
  | 0x8 => decodeGroup8 (fieldX w) (fieldY w) (fieldN w)
  | 0x9 => if fieldN w = 0x0 then .ok (.sneReg (fieldX w) (fieldY w)) else .error .unknownOpcode
  | 0xA => .ok (.ldI (fieldNNN w))
  | 0xB => .ok (.jpV0 (fieldNNN w))
  | 0xC => .ok (.rnd (fieldX w) (fieldNN w))
  | 0xD => .ok (.drw (fieldX w) (fieldY w) (fieldN w))
  | 0xE => decodeGroupE (fieldX w) (fieldNN w)
  | 0xF => decodeGroupF (fieldX w) (fieldNN w)
  | _ => .error .unknownOpcode

/-- `word = (MEM[pc] << 8) | MEM[pc+1]`: the byte at the lower address is the high half (rules R34, R45). -/
def wordOfBytes (hi lo : Byte) : Word := hi ++ lo

/-- The two bytes of a word as memory holds them, lowest address first (rule R34). -/
def bytesOfWord (w : Word) : List Byte := [w.extractLsb' 8 8, w.extractLsb' 0 8]

/-- The decoder over bytes: the instruction of the first two bytes and the bytes that follow it. -/
def decode : List Byte → Except Reject (Instr × List Byte)
  | hi :: lo :: rest =>
    match decodeWord (wordOfBytes hi lo) with
    | .ok i => .ok (i, rest)
    | .error r => .error r
  | [_] => .error .tooShort
  | [] => .error .tooShort

/-! ## Encode (rules R47, R50) -/

/-- Format `NNN`: group, 12-bit address. -/
def wordNNN (g : BitVec 4) (nnn : Nat) : Word := g ++ BitVec.ofNat 12 nnn

/-- Format `XNN`: group, register, byte. Format `X` is the same with a fixed low byte. -/
def wordXNN (g : BitVec 4) (x : RegNum) (nn : Byte) : Word :=
  (g ++ (BitVec.ofFin x : BitVec 4) : BitVec 8) ++ nn

/-- Format `XYN`: group, two registers, nibble. Format `XY` is the same with a fixed low nibble. -/
def wordXYN (g : BitVec 4) (x y : RegNum) (n : Nat) : Word :=
  (g ++ (BitVec.ofFin x : BitVec 4) : BitVec 8) ++
    ((BitVec.ofFin y : BitVec 4) ++ BitVec.ofNat 4 n : BitVec 8)

/-- The word of an instruction, from its row of rule R50. -/
def encode : Instr → Word
  | .cls => 0x00E0#16
  | .ret => 0x00EE#16
  | .jp nnn => wordNNN 0x1#4 nnn
  | .call nnn => wordNNN 0x2#4 nnn
  | .seImm x nn => wordXNN 0x3#4 x nn
  | .sneImm x nn => wordXNN 0x4#4 x nn
  | .seReg x y => wordXYN 0x5#4 x y 0x0
  | .ldImm x nn => wordXNN 0x6#4 x nn
  | .addImm x nn => wordXNN 0x7#4 x nn
  | .ldReg x y => wordXYN 0x8#4 x y 0x0
  | .orReg x y => wordXYN 0x8#4 x y 0x1
  | .andReg x y => wordXYN 0x8#4 x y 0x2
  | .xorReg x y => wordXYN 0x8#4 x y 0x3
  | .addReg x y => wordXYN 0x8#4 x y 0x4
  | .sub x y => wordXYN 0x8#4 x y 0x5
  | .shr x y => wordXYN 0x8#4 x y 0x6
  | .subn x y => wordXYN 0x8#4 x y 0x7
  | .shl x y => wordXYN 0x8#4 x y 0xE
  | .sneReg x y => wordXYN 0x9#4 x y 0x0
  | .ldI nnn => wordNNN 0xA#4 nnn
  | .jpV0 nnn => wordNNN 0xB#4 nnn
  | .rnd x nn => wordXNN 0xC#4 x nn
  | .drw x y n => wordXYN 0xD#4 x y n
  | .skp x => wordXNN 0xE#4 x 0x9E#8
  | .sknp x => wordXNN 0xE#4 x 0xA1#8
  | .ldVxDt x => wordXNN 0xF#4 x 0x07#8
  | .ldVxK x => wordXNN 0xF#4 x 0x0A#8
  | .ldDtVx x => wordXNN 0xF#4 x 0x15#8
  | .ldStVx x => wordXNN 0xF#4 x 0x18#8
  | .addI x => wordXNN 0xF#4 x 0x1E#8
  | .ldF x => wordXNN 0xF#4 x 0x29#8
  | .ldB x => wordXNN 0xF#4 x 0x33#8
  | .ldMemVx x => wordXNN 0xF#4 x 0x55#8
  | .ldVxMem x => wordXNN 0xF#4 x 0x65#8

/-! ## The opcode map's mask and match columns (rule R50) -/

/-- `(mask, match)` of an instruction's row: a word selects the row iff `word & mask == match`. -/
def opcodeRow : Instr → Word × Word
  | .cls => (0xFFFF#16, 0x00E0#16)
  | .ret => (0xFFFF#16, 0x00EE#16)
  | .jp _ => (0xF000#16, 0x1000#16)
  | .call _ => (0xF000#16, 0x2000#16)
  | .seImm _ _ => (0xF000#16, 0x3000#16)
  | .sneImm _ _ => (0xF000#16, 0x4000#16)
  | .seReg _ _ => (0xF00F#16, 0x5000#16)
  | .ldImm _ _ => (0xF000#16, 0x6000#16)
  | .addImm _ _ => (0xF000#16, 0x7000#16)
  | .ldReg _ _ => (0xF00F#16, 0x8000#16)
  | .orReg _ _ => (0xF00F#16, 0x8001#16)
  | .andReg _ _ => (0xF00F#16, 0x8002#16)
  | .xorReg _ _ => (0xF00F#16, 0x8003#16)
  | .addReg _ _ => (0xF00F#16, 0x8004#16)
  | .sub _ _ => (0xF00F#16, 0x8005#16)
  | .shr _ _ => (0xF00F#16, 0x8006#16)
  | .subn _ _ => (0xF00F#16, 0x8007#16)
  | .shl _ _ => (0xF00F#16, 0x800E#16)
  | .sneReg _ _ => (0xF00F#16, 0x9000#16)
  | .ldI _ => (0xF000#16, 0xA000#16)
  | .jpV0 _ => (0xF000#16, 0xB000#16)
  | .rnd _ _ => (0xF000#16, 0xC000#16)
  | .drw _ _ _ => (0xF000#16, 0xD000#16)
  | .skp _ => (0xF0FF#16, 0xE09E#16)
  | .sknp _ => (0xF0FF#16, 0xE0A1#16)
  | .ldVxDt _ => (0xF0FF#16, 0xF007#16)
  | .ldVxK _ => (0xF0FF#16, 0xF00A#16)
  | .ldDtVx _ => (0xF0FF#16, 0xF015#16)
  | .ldStVx _ => (0xF0FF#16, 0xF018#16)
  | .addI _ => (0xF0FF#16, 0xF01E#16)
  | .ldF _ => (0xF0FF#16, 0xF029#16)
  | .ldB _ => (0xF0FF#16, 0xF033#16)
  | .ldMemVx _ => (0xF0FF#16, 0xF055#16)
  | .ldVxMem _ => (0xF0FF#16, 0xF065#16)

/-- The 34 rows of rule R50, in its order, as `(mask, match)`. -/
def opcodeMap : List (Word × Word) :=
  [(0xFFFF#16, 0x00E0#16), (0xFFFF#16, 0x00EE#16), (0xF000#16, 0x1000#16), (0xF000#16, 0x2000#16),
   (0xF000#16, 0x3000#16), (0xF000#16, 0x4000#16), (0xF00F#16, 0x5000#16), (0xF000#16, 0x6000#16),
   (0xF000#16, 0x7000#16), (0xF00F#16, 0x8000#16), (0xF00F#16, 0x8001#16), (0xF00F#16, 0x8002#16)] ++
  [(0xF00F#16, 0x8003#16), (0xF00F#16, 0x8004#16), (0xF00F#16, 0x8005#16), (0xF00F#16, 0x8006#16),
   (0xF00F#16, 0x8007#16), (0xF00F#16, 0x800E#16), (0xF00F#16, 0x9000#16), (0xF000#16, 0xA000#16),
   (0xF000#16, 0xB000#16), (0xF000#16, 0xC000#16), (0xF000#16, 0xD000#16), (0xF0FF#16, 0xE09E#16)] ++
  [(0xF0FF#16, 0xE0A1#16), (0xF0FF#16, 0xF007#16), (0xF0FF#16, 0xF00A#16), (0xF0FF#16, 0xF015#16),
   (0xF0FF#16, 0xF018#16), (0xF0FF#16, 0xF01E#16), (0xF0FF#16, 0xF029#16), (0xF0FF#16, 0xF033#16),
   (0xF0FF#16, 0xF055#16), (0xF0FF#16, 0xF065#16)]

/-- `word & mask == match` for a row of the opcode map (rule R50). -/
abbrev selectsRow (w : Word) (row : Word × Word) : Prop := w &&& row.1 = row.2

/-! ## The host's question -/

/-- What the decoder reads from an instruction whose bits are `w`, bit 0 the least significant bit of
the instruction word (every instruction is the one word, rule R45). -/
def decodeTableWord (nbits w : Nat) : Option Instr :=
  match decode (bytesOfWord (BitVec.ofNat 16 (w % 2 ^ nbits))) with
  | .ok (i, _) => some i
  | .error _ => none

end Sys2Proof
end

