-- ==== Sys2Proof/Machine/Font.lean ====
section
/-! DEFINITION. The font, the model's one configuration argument (rules R7, R141): any table of 80 bytes,
and the spec's default for it. -/

namespace Sys2Proof.Machine

/-- `FONT[0..79]`, five bytes a glyph, glyph `d` at `5 * d` (rule R141): a parameter of the machine, held in
`State.font` (log 29). -/
abbrev Font := Vector Byte 80

/-- The bytes of the spec's default font. PRESUMED (log 2): the source does not print them; these are from
the spec's general knowledge (rule R141, decision D13). -/
def defaultGlyphs : List Byte :=
  [0xF0, 0x90, 0x90, 0x90, 0xF0, 0x20, 0x60, 0x20, 0x20, 0x70,
   0xF0, 0x10, 0xF0, 0x80, 0xF0, 0xF0, 0x10, 0xF0, 0x10, 0xF0] ++
  [0x90, 0x90, 0xF0, 0x10, 0x10, 0xF0, 0x80, 0xF0, 0x10, 0xF0,
   0xF0, 0x80, 0xF0, 0x90, 0xF0, 0xF0, 0x10, 0x20, 0x40, 0x40] ++
  [0xF0, 0x90, 0xF0, 0x90, 0xF0, 0xF0, 0x90, 0xF0, 0x10, 0xF0,
   0xF0, 0x90, 0xF0, 0x90, 0x90, 0xE0, 0x90, 0xE0, 0x90, 0xE0] ++
  [0xF0, 0x80, 0x80, 0x80, 0xF0, 0xE0, 0x90, 0x90, 0x90, 0xE0,
   0xF0, 0x80, 0xF0, 0x80, 0xF0, 0xF0, 0x80, 0xF0, 0x80, 0x80]

/-- The default value of the parameter `FONT` (rule R141). -/
def defaultFont : Font := Vector.mk defaultGlyphs.toArray rfl

end Sys2Proof.Machine
end

