-- ==== Sys2Proof/Machine/State.lean ====
section
/-! DEFINITION. The state of the machine: the twelve items of rule R10 and nothing else of the spec's,
with the model's own fields that carry the input `rnd` of a `STEP` (log 1) and the parameter `FONT` (log 29); the reasons an
operation can end without a next state; and the state after `RESET`. -/

namespace Sys2Proof.Machine

/-- `MEM` (rule R30): the bytes that differ from what `RESET` puts there, as (address, byte) pairs with
addresses strictly rising (Machine/Memory.lean says the form and what an unlisted address reads as). -/
abbrev Memory := List Host.Cell

/-- `FB` (rule R20): 32 rows of 64 one-bit pixels; bit `x` of row `y` is `FB[y][x]` (log 4). -/
abbrev Framebuffer := Vector (BitVec 64) 32

/-- The complete state (rule R10), and the model's own `rndInput`, `draws` and `font`. -/
structure State where
  /-- `MEM` (rule R30) -/
  mem : Memory
  /-- `V[0]`..`V[15]` (rule R11) -/
  v : Vector Byte 16
  /-- `I` (rule R14) -/
  i : Word
  /-- `pc` (rule R13) -/
  pc : Word
  /-- `STACK` (rule R15) -/
  stack : Vector Word 16
  /-- `SP`, 0..16 (rule R16) -/
  sp : Fin 17
  /-- `DT` (rule R17) -/
  dt : Byte
  /-- `ST` (rule R18) -/
  st : Byte
  /-- `FB` (rule R20) -/
  fb : Framebuffer
  /-- `K`, bit `k` is key `k` (rule R21) -/
  k : BitVec 16
  /-- `needsRedraw` (rule R22) -/
  needsRedraw : Bool
  /-- `blockedOnKey` (rule R23) -/
  blockedOnKey : Bool
  /-- The MODEL's own: the byte `rnd` the host has handed over for the coming `STEP` (rule R68); `none`
  where it has handed none over, and `rnd` is then any byte (log 1). -/
  rndInput : Option Byte
  /-- The MODEL's own: how many `STEP`s have completed, the argument of `Config.randomByte` (log 1). -/
  draws : Nat
  /-- The MODEL's own: the parameter `FONT` of this machine (rules R7, R141), which no operation changes
  (log 29). -/
  font : Font
  deriving DecidableEq, Repr

/-- The five error kinds of rule R120, a closed list. A fault leaves the state as it was (rule R126;
the spec's decisions D3 and D4, log 5). -/
inductive Fault where
  /-- raised by the fetch and by `DXYN`, `FX33`, `FX55`, `FX65` when an address above `0xFFF` would be
  accessed (rule R121); the hardware stops the operation too: safe -/
  | memoryOutOfRange
  /-- raised by `2NNN` when `SP = 16` (rule R122); the hardware stops the operation too: safe -/
  | stackOverflow
  /-- raised by `00EE` when `SP = 0` (rule R123); the hardware stops the operation too: safe -/
  | stackUnderflow
  /-- raised by `LOAD`, never by a `STEP`, when the image is longer than 3584 bytes (rule R124); the
  hardware stops the operation too: safe -/
  | programTooLarge
  /-- raised by the decode of a word that matches no row (rule R125); the hardware stops the operation
  too: safe -/
  | unknownOpcode
  deriving DecidableEq, Repr

/-- Reasons the MODEL stops where the spec gives an effect. -/
inductive Refusal where
  /-- raised by `exec` for an instruction that has no meaning yet, under its mnemonic in
  spec/opcode_table.json: safe; no instruction of this model raises it -/
  | notModelled (mnemonic : String)
  deriving DecidableEq, Repr

/-- The state after `RESET` of a machine with the given `FONT` (rules R24, R140): that font and zeros in
memory (nothing listed), `pc` at `0x200`, `needsRedraw` set, everything else 0. `rndInput` and `draws` are
the model's own (log 1). -/
def State.resetWith (font : Font) : State where
  mem := []
  v := Vector.replicate 16 0
  i := 0
  pc := 0x200
  stack := Vector.replicate 16 0
  sp := 0
  dt := 0
  st := 0
  fb := Vector.replicate 32 0
  k := 0
  needsRedraw := true
  blockedOnKey := false
  rndInput := none
  draws := 0
  font := font

/-- The state after `RESET` with the spec's default font (rule R141; log 2). -/
def State.reset : State := State.resetWith defaultFont

end Sys2Proof.Machine
end

