-- ==== Sys2Proof/Machine/Memory.lean ====
section
/-! DEFINITION. Memory as a canonical list of cells (rules R30, R31): what an unlisted address reads as,
reading and writing one byte (rule R38), and storing bytes in a row. -/

namespace Sys2Proof.Machine

/-- What `RESET` leaves at an address, and an unlisted address reads as: the font at `0x000`-`0x04F`,
zero above (rules R24, R140; log 22). -/
def Memory.background (font : Font) (a : Nat) : Byte := if h : a < 80 then font[a] else 0

/-- The byte `MEM[a]` (`MemRead`, rule R9); the range of `a` is checked before an access (rule R36). -/
def Memory.read (font : Font) : Memory → Nat → Byte
  | [], a => Memory.background font a
  | (c, b) :: m, a => if a = c then b else Memory.read font m a

/-- List the cell `(a, b)`, in place of a cell at `a` if there is one. -/
def Memory.insert (a : Nat) (b : Byte) : Memory → Memory
  | [] => [(a, b)]
  | (c, d) :: m =>
    if a < c then (a, b) :: (c, d) :: m
    else if a = c then (a, b) :: m
    else (c, d) :: Memory.insert a b m

/-- Unlist every cell at `a` (a canonical memory has at most one). -/
def Memory.erase (a : Nat) : Memory → Memory
  | [] => []
  | (c, d) :: m => if a = c then Memory.erase a m else (c, d) :: Memory.erase a m

/-- `MEM[a] <- b` (`MemWrite`, rules R9, R38), keeping the canonical form. -/
def Memory.write (font : Font) (m : Memory) (a : Nat) (b : Byte) : Memory :=
  if b = Memory.background font a then Memory.erase a m else Memory.insert a b m

/-- Store bytes at `a`, `a + 1`, ... (rule R35). -/
def Memory.writeBytes (font : Font) (m : Memory) (a : Nat) : List Byte → Memory
  | [] => m
  | b :: bs => Memory.writeBytes font (Memory.write font m a b) (a + 1) bs

/-- Every cell lies above the bound, inside the address space, and differs from the background; the
addresses rise strictly. -/
def Memory.wfAbove (font : Font) : Nat → Memory → Bool
  | _, [] => true
  | low, (c, b) :: m =>
    decide (low ≤ c) && decide (c < Config.memSize) && decide (b ≠ Memory.background font c) &&
      Memory.wfAbove font (c + 1) m

/-- The canonical form: equal memories over one font are equal lists. -/
def Memory.wf (font : Font) (m : Memory) : Bool := Memory.wfAbove font 0 m

end Sys2Proof.Machine
end

