-- ==== Sys2Proof/Machine/Ops.lean ====
section
/-! DEFINITION. The named operations every meaning is built from: registers, memory with its range
check, the program counter, the call stack, ending an operation with an error, the framebuffer's
pixels, fetching, and the end of a `STEP`. -/

namespace Sys2Proof.Machine

/-- The three outcomes of an execute phase or a `STEP`. -/
abbrev Result := Host.Outcome State Fault Refusal

/-! ## Ending an operation with an error -/

/-- `raise <Kind>` (rule R9), this machine's whole taking of an exception (rule R128): the operation
ends with the kind, nothing is saved, no handler runs, and the state stays as it was (rule R126). There
is no return from it (rule R129). -/
def raise (kind : Fault) : Result := .fault kind

/-- Run `f` on the next state, or end as `o` ends. -/
def andThen (o : Result) (f : State → Result) : Result :=
  match o with
  | .next t => f t
  | .fault kind => .fault kind
  | .refused r => .refused r

/-! ## General registers (rule R11) -/

/-- `V[x]`. -/
def State.getV (s : State) (x : RegNum) : Byte := s.v[x]

/-- `V[x] <- b`. -/
def State.setV (s : State) (x : RegNum) (b : Byte) : State := { s with v := s.v.set x b }

/-- Write the flag to `V[15]` first and the result to `V[x]` second (rules R12, R70 b): with `x = 15`
the result stays (rule R70 c). -/
def State.setFlagThenV (s : State) (flag : Byte) (x : RegNum) (b : Byte) : State :=
  (s.setV VF flag).setV x b

/-- `V[j] <- f j` for every `j` in `0..x` (rule R116). -/
def State.setVUpTo (s : State) (x : RegNum) (f : Nat → Byte) : State :=
  { s with v := Vector.ofFn fun j => if j ≤ x then f j else s.v[j] }

/-! ## Index register, timers, flags -/

/-- `I <- w` (rule R14). -/
def State.setI (s : State) (w : Word) : State := { s with i := w }

/-- `DT <- b` (rule R17). -/
def State.setDt (s : State) (b : Byte) : State := { s with dt := b }

/-- `ST <- b` (rule R18). -/
def State.setSt (s : State) (b : Byte) : State := { s with st := b }

/-- `blockedOnKey <- b` (rule R23). -/
def State.setBlocked (s : State) (b : Bool) : State := { s with blockedOnKey := b }

/-! ## Program counter (rules R13, R63) -/

/-- `pc <- target`. -/
def State.setPc (s : State) (target : Word) : State := { s with pc := target }

/-- `pc <- pc + 2`, the advance of every instruction that does not redirect control (rule R63). -/
def State.advance (s : State) : State := { s with pc := s.pc + 2 }

/-- `if c then pc <- pc + 4 else pc <- pc + 2` (rule R85 a). -/
def State.skipIf (s : State) (c : Bool) : State := { s with pc := if c then s.pc + 4 else s.pc + 2 }

/-! ## Memory (rules R33, R36, R110) -/

/-- The byte at an address. -/
def State.readByte (s : State) (a : Nat) : Byte := Memory.read s.font s.mem a

/-- Store bytes at `a`, `a + 1`, .... -/
def State.storeBytes (s : State) (a : Nat) (bs : List Byte) : State :=
  { s with mem := Memory.writeBytes s.font s.mem a bs }

/-- No address of an access of `len` bytes at `base` exceeds `0xFFF`; an access of no byte has no
address (rule R36). Addresses are naturals, never wrapped. -/
def inMemory (base len : Nat) : Bool := decide (len = 0) || decide (base + len ≤ Config.memSize)

/-- The range test of an access, made before anything is read or written (rule R36): go on, or end with
`MemoryOutOfRange`. -/
def checked (base len : Nat) (go : Result) : Result :=
  if inMemory base len then go else raise .memoryOutOfRange

/-! ## Call stack (rules R15, R16) -/

/-- `STACK[SP] <- w; SP <- SP + 1`, or `StackOverflow` when all 16 slots are full (rule R122). -/
def push (s : State) (w : Word) : Result :=
  if h : s.sp.val < 16 then
    .next { s with stack := s.stack.set s.sp.val w, sp := ⟨s.sp.val + 1, by omega⟩ }
  else raise .stackOverflow

/-- `SP <- SP - 1; pc <- STACK[SP]`, the slot keeping its value (rule R15), or `StackUnderflow` when
the stack is empty (rule R123). -/
def popToPc (s : State) : Result :=
  if h : 0 < s.sp.val then
    .next { s with sp := ⟨s.sp.val - 1, by omega⟩, pc := s.stack[s.sp.val - 1]'(by omega) }
  else raise .stackUnderflow

/-! ## Framebuffer (rules R20, R95) -/

/-- `FB[y][x]`. -/
def Framebuffer.pixel (fb : Framebuffer) (x : Fin 64) (y : Fin 32) : Bool := fb[y].getLsbD x

/-- `FB[y][x] <- b`. -/
def Framebuffer.setPixel (fb : Framebuffer) (x : Fin 64) (y : Fin 32) (b : Bool) : Framebuffer :=
  fb.set y (if b then fb[y] ||| (1#64 <<< x.val) else fb[y] &&& ~~~(1#64 <<< x.val))

/-- Every pixel unlit. -/
def Framebuffer.blank : Framebuffer := Vector.replicate 32 0

/-- Replace the framebuffer and set `needsRedraw`, whether or not a pixel changed (rule R22). -/
def State.setFb (s : State) (fb : Framebuffer) : State := { s with fb := fb, needsRedraw := true }

/-! ## The input `rnd` (rules R68, R82) -/

/-- The random byte of this `STEP`: the one the host handed over, else a free value (log 1). -/
def State.rnd (s : State) : Byte := s.rndInput.getD (Config.randomByte s.draws)

/-! ## Fetch and the end of a `STEP` (rules R60, R61, R64) -/

/-- The two bytes at `pc`, lower address first, or `MemoryOutOfRange` when `pc > 0xFFE` (rule R61). -/
def fetch (s : State) : Except Fault (List Byte) :=
  if inMemory s.pc.toNat 2 then .ok [s.readByte s.pc.toNat, s.readByte (s.pc.toNat + 1)]
  else .error .memoryOutOfRange

/-- The error kind of bytes that are no instruction (rule R62). `fetch` gives two bytes, so `tooShort`
does not arise; it would be a byte of the word that does not exist (rule R61). -/
def rejectFault : Reject → Fault
  | .tooShort => .memoryOutOfRange
  | .unknownOpcode => .unknownOpcode

/-- A nonzero timer loses one, a zero timer stays (rule R64). -/
def countDown (b : Byte) : Byte := if b = 0 then 0 else b - 1

/-- The timer phase: the two decrements, independent of each other (rule R64). -/
def State.timerPhase (s : State) : State := { s with dt := countDown s.dt, st := countDown s.st }

/-- The input `rnd` belongs to one `STEP` only: drop it and move to the next draw (log 1). -/
def State.dropRnd (s : State) : State := { s with rndInput := none, draws := s.draws + 1 }

/-- What follows a successful execute phase: the timer phase (rule R60, phase 4). -/
def State.endStep (s : State) : State := s.timerPhase.dropRnd

/-- The word `w` in the two bytes the next fetch reads; nothing where the fetch would fault. -/
def State.putWordAtPc (s : State) (w : Word) : State :=
  if inMemory s.pc.toNat 2 then s.storeBytes s.pc.toNat (bytesOfWord w) else s

end Sys2Proof.Machine
end

