-- ==== Sys2Proof/Machine/Operands.lean ====
section
/-! DEFINITION. The operand forms: immediates, the data address `I + k` (rule R110), the glyph address,
key lookup (rule R100), decimal digits (rule R114), the registers of a block store, and the pixels of a
sprite (rule R97). Every operand is read from the state an instruction starts in (rule R70 a). -/

namespace Sys2Proof.Machine

/-- `NNN` as an address for `pc` or `I`: zero-extended, not scaled (rule R48). -/
def immAddress (nnn : Nat) : Word := BitVec.ofNat 16 nnn

/-- The target of `BNNN`: `V[0] + NNN` as naturals, no modulus (rule R89; decision D6, log 7). -/
def jumpTable (v0 : Byte) (nnn : Nat) : Word := BitVec.ofNat 16 (v0.toNat + nnn)

/-- The natural address every data access starts at (rule R110). -/
def State.base (s : State) : Nat := s.i.toNat

/-- `(I + V[X]) mod 4096`, the one address computation that wraps (rule R112). -/
def indexSum (i : Word) (b : Byte) : Word := BitVec.ofNat 16 ((i.toNat + b.toNat) % 4096)

/-- `(V[X] & 0xF) * 5`, the address of a glyph (rules R113, R141). -/
def glyphAddress (b : Byte) : Word := BitVec.ofNat 16 ((b &&& 0xF#8).toNat * Config.glyphStride)

/-- `pressed(v)`: `v <= 15` and `K[v] = 1`; a value above 15 names no key (rule R100; decision D9, log 10). -/
def pressed (k : BitVec 16) (b : Byte) : Bool := decide (b.toNat ≤ 15) && k.getLsbD b.toNat

/-- The smallest pressed key code, if some key is pressed (rule R104; decision D10, log 11). -/
def lowestKey (k : BitVec 16) : Option Nat := (List.range 16).find? fun c => k.getLsbD c

/-- Hundreds, tens and ones of a byte, in the order they are stored (rules R35, R114). -/
def decimalDigits (b : Byte) : List Byte :=
  [BitVec.ofNat 8 (b.toNat / 100), BitVec.ofNat 8 (b.toNat / 10 % 10), BitVec.ofNat 8 (b.toNat % 10)]

/-- `V[0]`, ..., `V[x]`, in the order they are stored (rules R35, R115). -/
def State.regsUpTo (s : State) (x : RegNum) : List Byte := s.v.toList.take (x.val + 1)

/-- Is the pixel at column offset `col` of a sprite row lit? Bit 7 is column offset 0. PRESUMED (log 3):
the source does not number the bits; this is the spec's general-knowledge order (rule R97, decision D12). -/
def spriteBit (row : Byte) (col : Nat) : Bool := row.getLsbD (7 - col)

/-- The column and row of a sprite's pixel, each wrapped by itself (rules R95, R97). -/
def spritePixel (x0 y0 : Byte) (row col : Nat) : Fin 64 × Fin 32 :=
  (Fin.ofNat 64 (x0.toNat + col), Fin.ofNat 32 (y0.toNat + row))

/-- The screen positions of the lit pixels of an `n`-row sprite at `base` drawn at `(x0, y0)`, in the
order of rule R97's loops. -/
def State.spritePixels (s : State) (x0 y0 : Byte) (base n : Nat) : List (Fin 64 × Fin 32) :=
  (List.range n).flatMap fun row =>
    ((List.range 8).filter (spriteBit (s.readByte (base + row)))).map (spritePixel x0 y0 row)

/-- `FB[y][x] <- old[y][x] ^ 1` for every listed pixel, `old` being the framebuffer before the
instruction (rule R97). -/
def Framebuffer.toggleAll (old : Framebuffer) (ps : List (Fin 64 × Fin 32)) : Framebuffer :=
  ps.foldl (fun fb p => fb.setPixel p.1 p.2 (!old.pixel p.1 p.2)) old

end Sys2Proof.Machine
end

