-- ==== Sys2Proof/Machine/Flags.lean ====
section
/-! DEFINITION. What the flag-writing instructions put into `V[15]` (rule R12): 0 or 1, computed from
the latched operands as exact naturals. -/

namespace Sys2Proof.Machine

/-- 1 or 0. -/
def flagOf (c : Bool) : Byte := if c then 1 else 0

/-- `8XY4`: 1 iff `a + b > 255` (rule R77). -/
def carryFlag (a b : Byte) : Byte := flagOf (decide (255 < a.toNat + b.toNat))

/-- `8XY5`, `8XY7`: 1 iff minuend `a` >= subtrahend `b`, no borrow (rules R78, R80). -/
def noBorrowFlag (a b : Byte) : Byte := flagOf (decide (b.toNat ≤ a.toNat))

/-- `8XY6`: `a & 1`, the bit about to be lost (rule R79). -/
def lowBitFlag (a : Byte) : Byte := a &&& 0x1#8

/-- `8XYE`: `(a & 0x80) >> 7`, the bit about to be lost (rule R81). -/
def highBitFlag (a : Byte) : Byte := (a &&& 0x80#8) >>> 7

/-- `DXYN`: 1 iff a lit pixel of the sprite falls on a pixel that was set (rule R97). -/
def collisionFlag (old : Framebuffer) (ps : List (Fin 64 × Fin 32)) : Byte :=
  flagOf (ps.any fun p => old.pixel p.1 p.2)

end Sys2Proof.Machine
end

