-- ==== Sys2Proof/Machine/Arith.lean ====
section
/-! DEFINITION. The meanings of the arithmetic and logic instructions (41_arith_logic.md). None faults.
Operands are read from `s`, the state the instruction starts in (rule R70 a; decision D5, log 6). -/

namespace Sys2Proof.Machine

/-- `6XNN`: `V[X] <- NN` (rule R71). -/
def execLdImm (x : RegNum) (nn : Byte) (s : State) : Result :=
  .next (s.setV x nn).advance

/-- `7XNN`: `V[X] <- (V[X] + NN) mod 256`, no flag (rule R72). -/
def execAddImm (x : RegNum) (nn : Byte) (s : State) : Result :=
  .next (s.setV x (s.getV x + nn)).advance

/-- `8XY0`: `V[X] <- V[Y]` (rule R73). -/
def execLdReg (x y : RegNum) (s : State) : Result :=
  .next (s.setV x (s.getV y)).advance

/-- `8XY1`: `V[X] <- V[X] | V[Y]`, no flag (rule R74). -/
def execOrReg (x y : RegNum) (s : State) : Result :=
  .next (s.setV x (s.getV x ||| s.getV y)).advance

/-- `8XY2`: `V[X] <- V[X] & V[Y]`, no flag (rule R75). -/
def execAndReg (x y : RegNum) (s : State) : Result :=
  .next (s.setV x (s.getV x &&& s.getV y)).advance

/-- `8XY3`: `V[X] <- V[X] ^ V[Y]`, no flag (rule R76). -/
def execXorReg (x y : RegNum) (s : State) : Result :=
  .next (s.setV x (s.getV x ^^^ s.getV y)).advance

/-- `8XY4`: carry to `V[15]`, then `V[X] <- (V[X] + V[Y]) mod 256` (rule R77). -/
def execAddReg (x y : RegNum) (s : State) : Result :=
  .next (s.setFlagThenV (carryFlag (s.getV x) (s.getV y)) x (s.getV x + s.getV y)).advance

/-- `8XY5`: no-borrow to `V[15]`, then `V[X] <- (V[X] - V[Y]) mod 256` (rule R78). -/
def execSub (x y : RegNum) (s : State) : Result :=
  .next (s.setFlagThenV (noBorrowFlag (s.getV x) (s.getV y)) x (s.getV x - s.getV y)).advance

/-- `8XY6`: lost bit to `V[15]`, then `V[X] <- V[X] >> 1`; `Y` is not used (rule R79). -/
def execShr (x _y : RegNum) (s : State) : Result :=
  .next (s.setFlagThenV (lowBitFlag (s.getV x)) x (s.getV x >>> 1)).advance

/-- `8XY7`: no-borrow to `V[15]`, then `V[X] <- (V[Y] - V[X]) mod 256` (rule R80). -/
def execSubn (x y : RegNum) (s : State) : Result :=
  .next (s.setFlagThenV (noBorrowFlag (s.getV y) (s.getV x)) x (s.getV y - s.getV x)).advance

/-- `8XYE`: lost bit to `V[15]`, then `V[X] <- (V[X] << 1) mod 256`; `Y` is not used (rule R81). -/
def execShl (x _y : RegNum) (s : State) : Result :=
  .next (s.setFlagThenV (highBitFlag (s.getV x)) x (s.getV x <<< 1)).advance

/-- `CXNN`: `V[X] <- rnd & NN` (rules R82, R136). -/
def execRnd (x : RegNum) (nn : Byte) (s : State) : Result :=
  .next (s.setV x (s.rnd &&& nn)).advance

end Sys2Proof.Machine
end

