-- ==== Sys2Proof/Machine/Control.lean ====
section
/-! DEFINITION. The meanings of the control-flow instructions (42_control_flow.md). A target is never
checked when it is set; the next fetch checks it (rule R85 b, c; decision D6, log 7). -/

namespace Sys2Proof.Machine

/-- `00EE`: pop the return address into `pc`, or `StackUnderflow` (rule R86). -/
def execRet (s : State) : Result := popToPc s

/-- `1NNN`: `pc <- NNN` (rule R87). -/
def execJp (nnn : Nat) (s : State) : Result := .next (s.setPc (immAddress nnn))

/-- `2NNN`: push `pc + 2`, the address after this call, then `pc <- NNN`, or `StackOverflow` (rule R88). -/
def execCall (nnn : Nat) (s : State) : Result :=
  andThen (push s (s.pc + 2)) fun t => .next (t.setPc (immAddress nnn))

/-- `BNNN`: `pc <- V[0] + NNN` (rule R89). -/
def execJpV0 (nnn : Nat) (s : State) : Result := .next (s.setPc (jumpTable (s.getV 0) nnn))

/-- `3XNN`: skip if `V[X] == NN` (rule R90). -/
def execSeImm (x : RegNum) (nn : Byte) (s : State) : Result :=
  .next (s.skipIf (decide (s.getV x = nn)))

/-- `4XNN`: skip if `V[X] != NN` (rule R91). -/
def execSneImm (x : RegNum) (nn : Byte) (s : State) : Result :=
  .next (s.skipIf (decide (s.getV x ≠ nn)))

/-- `5XY0`: skip if `V[X] == V[Y]` (rule R92). -/
def execSeReg (x y : RegNum) (s : State) : Result :=
  .next (s.skipIf (decide (s.getV x = s.getV y)))

/-- `9XY0`: skip if `V[X] != V[Y]` (rule R93). -/
def execSneReg (x y : RegNum) (s : State) : Result :=
  .next (s.skipIf (decide (s.getV x ≠ s.getV y)))

end Sys2Proof.Machine
end

