-- ==== Sys2Proof/Machine/Display.lean ====
section
/-! DEFINITION. The meanings of the display instructions (43_display.md). -/

namespace Sys2Proof.Machine

/-- `00E0`: every pixel to 0, `needsRedraw` set (rule R96). -/
def execCls (s : State) : Result := .next (s.setFb Framebuffer.blank).advance

/-- `DXYN`: XOR the `n`-row sprite at `I` onto the framebuffer at `(V[X], V[Y])`, collision to `V[15]`,
`needsRedraw` set, or `MemoryOutOfRange` before anything is done (rule R97). -/
def execDrw (x y : RegNum) (n : Nat) (s : State) : Result :=
  checked s.base n
    (let ps := s.spritePixels (s.getV x) (s.getV y) s.base n
     .next ((s.setV VF (collisionFlag s.fb ps)).setFb (s.fb.toggleAll ps)).advance)

end Sys2Proof.Machine
end

