-- ==== Sys2Proof/Machine/IndexMemory.lean ====
section
/-! DEFINITION. The meanings of the index-register and memory instructions (45_index_memory.md). `I` is
changed by `ANNN`, `FX1E` and `FX29` only (rule R14). -/

namespace Sys2Proof.Machine

/-- `ANNN`: `I <- NNN` (rule R111). -/
def execLdI (nnn : Nat) (s : State) : Result := .next (s.setI (immAddress nnn)).advance

/-- `FX1E`: `I <- (I + V[X]) mod 4096`, no flag (rule R112). -/
def execAddI (x : RegNum) (s : State) : Result := .next (s.setI (indexSum s.i (s.getV x))).advance

/-- `FX29`: `I <- (V[X] & 0xF) * 5` (rule R113). -/
def execLdF (x : RegNum) (s : State) : Result := .next (s.setI (glyphAddress (s.getV x))).advance

/-- `FX33`: hundreds, tens, ones of `V[X]` at `I`, `I+1`, `I+2`, or `MemoryOutOfRange` before any write
(rule R114). -/
def execLdB (x : RegNum) (s : State) : Result :=
  checked s.base 3 (.next (s.storeBytes s.base (decimalDigits (s.getV x))).advance)

/-- `FX55`: `V[0..X]` to `I..I+X`, or `MemoryOutOfRange` before any write (rule R115). -/
def execLdMemVx (x : RegNum) (s : State) : Result :=
  checked s.base (x.val + 1) (.next (s.storeBytes s.base (s.regsUpTo x)).advance)

/-- `FX65`: `I..I+X` to `V[0..X]`, or `MemoryOutOfRange` before any write (rule R116). -/
def execLdVxMem (x : RegNum) (s : State) : Result :=
  checked s.base (x.val + 1) (.next (s.setVUpTo x fun j => s.readByte (s.base + j)).advance)

end Sys2Proof.Machine
end

