-- ==== Sys2Proof/Machine/TimerInput.lean ====
section
/-! DEFINITION. The meanings of the timer and keypad instructions (44_timer_input.md). None faults. The
timer phase that follows them in the same `STEP` is `State.endStep`'s. -/

namespace Sys2Proof.Machine

/-- `EX9E`: skip if key `V[X]` is pressed (rule R101). -/
def execSkp (x : RegNum) (s : State) : Result := .next (s.skipIf (pressed s.k (s.getV x)))

/-- `EXA1`: skip if key `V[X]` is not pressed (rule R102). -/
def execSknp (x : RegNum) (s : State) : Result := .next (s.skipIf (!pressed s.k (s.getV x)))

/-- `FX07`: `V[X] <- DT` (rule R103). -/
def execLdVxDt (x : RegNum) (s : State) : Result := .next (s.setV x s.dt).advance

/-- `FX0A`: with no key pressed, set `blockedOnKey` and stay; else store the lowest pressed key code,
clear `blockedOnKey` and advance (rule R104). -/
def execLdVxK (x : RegNum) (s : State) : Result :=
  match lowestKey s.k with
  | none => .next (s.setBlocked true)
  | some c => .next ((s.setV x (BitVec.ofNat 8 c)).setBlocked false).advance

/-- `FX15`: `DT <- V[X]` (rule R105). -/
def execLdDtVx (x : RegNum) (s : State) : Result := .next (s.setDt (s.getV x)).advance

/-- `FX18`: `ST <- V[X]` (rule R106). -/
def execLdStVx (x : RegNum) (s : State) : Result := .next (s.setSt (s.getV x)).advance

end Sys2Proof.Machine
end

