-- ==== Sys2Proof/Machine/Step.lean ====
section
/-! DEFINITION. The `STEP` operation (rule R60): fetch, decode, execute, timer phase. -/

namespace Sys2Proof.Machine

/-- Phases 1 to 3 of a `STEP`: fetch at `pc` (rule R61), decode (rule R62), execute (rule R63). Also
while `blockedOnKey = 1`, which is no special case (rule R67). -/
def executePhase (s : State) : Result :=
  match fetch s with
  | .error kind => raise kind
  | .ok bytes =>
    match decode bytes with
    | .error r => raise (rejectFault r)
    | .ok (i, _) => exec i s

/-- `STEP` (rule R60): phases 1 to 3, then the timer phase on the state they left; an error ends it
with the state as it was (rule R126). Its input `rnd` is `s.rnd` (log 1). -/
def step (s : State) : Host.Outcome State Fault Refusal :=
  andThen (executePhase s) fun t => .next t.endStep

/-- `s` with an instruction's word where the next `STEP` fetches: the two bytes at `pc`. It stands for
the host's `LOAD` of an image (log 15). -/
def State.withFetchWord (s : State) (nbits w : Nat) : State :=
  s.putWordAtPc (BitVec.ofNat 16 (w % 2 ^ nbits))

end Sys2Proof.Machine
end

