-- ==== Sys2Proof/Machine/HostOps.lean ====
section
/-! DEFINITION. The operations of the engine and the two writes of the host (rules R4, R140, R142,
R145), and the outputs the engine presents after each (rules R19, R66, R120). -/

namespace Sys2Proof.Machine

/-- What can happen to the machine, each atomic and between two others (rule R4). -/
inductive Op where
  /-- the engine's `RESET` (rule R140) -/
  | reset
  /-- the engine's `LOAD(bytes)` (rule R142) -/
  | load (bytes : List Byte)
  /-- the engine's `STEP(rnd)` (rule R60) -/
  | step (rnd : Byte)
  /-- the host writes the key table (rules R21, R145) -/
  | setKeys (k : BitVec 16)
  /-- the host clears `needsRedraw` (rules R22, R98) -/
  | clearRedraw
  deriving DecidableEq, Repr

/-- `result`: `ok` or one of the error kinds (rules R66, R120). `refused` is the model's own and does
not occur; that a host write ends as `ok` is the model's choice (log 30). -/
inductive Completion where
  /-- the operation completed -/
  | ok
  /-- the operation ended with an error kind -/
  | error (kind : Fault)
  /-- the model gave the instruction no meaning -/
  | refused (r : Refusal)
  deriving DecidableEq, Repr

/-- The numeric code of a result; the spec's own labels (rule R120; decision D16, log 14). -/
def Completion.code : Completion → Option Nat
  | .ok => some 0
  | .error .memoryOutOfRange => some 1
  | .error .stackOverflow => some 2
  | .error .stackUnderflow => some 3
  | .error .programTooLarge => some 4
  | .error .unknownOpcode => some 5
  | .refused _ => none

/-- An operation's end: the state it leaves, its `result`, and the pulse `tone_request` (rule R19). -/
structure OpEnd where
  /-- the state after the operation -/
  state : State
  /-- `result` -/
  result : Completion
  /-- `tone_request` -/
  toneRequest : Bool
  deriving DecidableEq, Repr

/-- `LOAD(bytes)`: copy the image to `0x200` on, or `ProgramTooLarge` and nothing written (rule R142). -/
def load (bytes : List Byte) (s : State) : Result :=
  if bytes.length ≤ Config.maxProg then .next (s.storeBytes Config.progBase bytes)
  else raise .programTooLarge

/-- The state in which the host has handed over `rnd` for the coming `STEP` (rule R68). -/
def State.withRnd (s : State) (rnd : Byte) : State := { s with rndInput := some rnd }

/-- `K <- k`, the host's write (rule R21). -/
def State.setKeys (s : State) (k : BitVec 16) : State := { s with k := k }

/-- `needsRedraw <- 0`, the host's write (rule R22). -/
def State.clearRedraw (s : State) : State := { s with needsRedraw := false }

/-- `tone_request` of the `STEP` from `s`: 1 iff it succeeds and its timer phase finds `ST = 1` (rule
R65; decision D14, log 13). -/
def toneRequest (s : State) : Bool :=
  match executePhase s with
  | .next t => decide (t.st = 1)
  | .fault _ => false
  | .refused _ => false

/-- An outcome as an operation's end; an error leaves the state `s` the operation began in (rule R126). -/
def endWith (s : State) (tone : Bool) : Result → OpEnd
  | .next t => ⟨t, .ok, tone⟩
  | .fault kind => ⟨s, .error kind, false⟩
  | .refused r => ⟨s, .refused r, false⟩

/-- Run one operation (rule R4). `RESET` writes the machine's `FONT` (rule R140). DESIGN CHOICE (log 30): the
spec gives a host write no `result` and no pulse of its own; here it ends as `ok` with `tone_request` 0,
whatever the operation before it showed. -/
def operate (op : Op) (s : State) : OpEnd :=
  match op with
  | .reset => ⟨State.resetWith s.font, .ok, false⟩
  | .load bytes => endWith s false (load bytes s)
  | .step rnd => endWith s (toneRequest (s.withRnd rnd)) (step (s.withRnd rnd))
  | .setKeys k => ⟨s.setKeys k, .ok, false⟩
  | .clearRedraw => ⟨s.clearRedraw, .ok, false⟩

/-- Run operations in order, from a state. -/
def operateAll (ops : List Op) (s : State) : State :=
  ops.foldl (fun t op => (operate op t).state) s

/-- `tone_active`: the level `ST > 0` (rules R19, R65). -/
def State.toneActive (s : State) : Bool := decide (0 < s.st.toNat)

/-- The outputs presented to the host (rule R19). -/
structure Outputs where
  /-- `FB` -/
  fb : Framebuffer
  /-- `needsRedraw` -/
  needsRedraw : Bool
  /-- `blockedOnKey` -/
  blockedOnKey : Bool
  /-- `tone_active` -/
  toneActive : Bool
  /-- `tone_request` -/
  toneRequest : Bool
  /-- `result` -/
  result : Completion
  deriving DecidableEq, Repr

/-- The outputs after an operation (rule R19). -/
def OpEnd.outputs (e : OpEnd) : Outputs where
  fb := e.state.fb
  needsRedraw := e.state.needsRedraw
  blockedOnKey := e.state.blockedOnKey
  toneActive := e.state.toneActive
  toneRequest := e.toneRequest
  result := e.result

end Sys2Proof.Machine
end

