-- ==== Sys2Proof/Safety.lean ====
section
/-! DEFINITION. The terms claims are stated in: what a pair of states agrees on (frames), the invariants
of rule R25, the states the operations reach, and what a safe step is. -/

namespace Sys2Proof.Machine

/-- The pieces of state of rule R10, and the model's carriers of the input `rnd` and of `FONT`. -/
inductive Part where
  | mem | v | i | pc | stack | sp | dt | st | fb | k | needsRedraw | blockedOnKey | rnd | font
  deriving DecidableEq, Repr

/-- `s` and `t` hold the same in one piece of state. Memory is compared through the read of one byte. -/
def SamePart (s t : State) : Part → Prop
  | .mem => ∀ a, t.readByte a = s.readByte a
  | .v => ∀ r, t.getV r = s.getV r
  | .i => t.i = s.i
  | .pc => t.pc = s.pc
  | .stack => ∀ j : Fin 16, t.stack[j] = s.stack[j]
  | .sp => t.sp = s.sp
  | .dt => t.dt = s.dt
  | .st => t.st = s.st
  | .fb => ∀ x y, t.fb.pixel x y = s.fb.pixel x y
  | .k => t.k = s.k
  | .needsRedraw => t.needsRedraw = s.needsRedraw
  | .blockedOnKey => t.blockedOnKey = s.blockedOnKey
  | .rnd => t.rndInput = s.rndInput ∧ t.draws = s.draws
  | .font => t.font = s.font

/-- Every piece of state but the listed ones is the same. -/
def SameExcept (parts : List Part) (s t : State) : Prop := ∀ p, p ∉ parts → SamePart s t p

/-- Every general register but the listed ones is the same. -/
def SameRegsExcept (regs : List RegNum) (s t : State) : Prop := ∀ r, r ∉ regs → t.getV r = s.getV r

/-- Every byte outside the `len` bytes at `a` reads as before. -/
def SameMemoryOutside (a len : Nat) (s t : State) : Prop :=
  ∀ c, c < a ∨ a + len ≤ c → t.readByte c = s.readByte c

/-- The fetch of a `STEP` succeeds: `pc <= 0xFFE` (rule R61). -/
def Fetchable (s : State) : Prop := s.pc.toNat ≤ 0xFFE

/-- The word at `pc` (rule R34). -/
def wordAtPc (s : State) : Word :=
  wordOfBytes (s.readByte s.pc.toNat) (s.readByte (s.pc.toNat + 1))

/-- The invariants of rule R25 (all but the last, `BlockedInv`), and the canonical form of memory, which is
the model's own representation (log 22). -/
structure Inv (s : State) : Prop where
  /-- `I <= 0xFFF` -/
  index : s.i.toNat ≤ 0xFFF
  /-- `pc <= 0x10FE` -/
  pc : s.pc.toNat ≤ 0x10FE
  /-- every `STACK[j]` with `j < SP` is in `0x002`..`0x1000` -/
  stack : ∀ j : Fin 16, j.val < s.sp.val → 2 ≤ s.stack[j].toNat ∧ s.stack[j].toNat ≤ 0x1000
  /-- the list of cells is in canonical form -/
  mem : Memory.wf s.font s.mem = true

/-- The last line of rule R25: while `blockedOnKey = 1`, `pc` addresses an `FX0A`. -/
def BlockedInv (s : State) : Prop :=
  s.blockedOnKey = true → Fetchable s ∧ ∃ x, decodeWord (wordAtPc s) = .ok (.ldVxK x)

/-- The states reachable from `RESET`, with any `FONT`, by the operations and the host's writes (rule R25). -/
inductive Reachable : State → Prop where
  | reset (font : Font) : Reachable (State.resetWith font)
  | operate (op : Op) {s : State} : Reachable s → Reachable (operate op s).state

/-- The `STEP` from `s` completes: neither an error nor a refusal. -/
def StepCompletes (s : State) : Prop := ∃ t, step s = .next t

/-- A safe run of `n` `STEP`s: every one completes, whatever byte the host hands over with each. -/
def SafeFor : Nat → State → Prop
  | 0, _ => True
  | n + 1, s => ∀ rnd, ∃ t, step (s.withRnd rnd) = .next t ∧ SafeFor n t

/-- The execute-phase error of an instruction in a state (rules R121, R122, R123), if it has one. -/
def execFault (i : Instr) (s : State) : Option Fault :=
  match i with
  | .cls => none
  | .ret => if s.sp.val = 0 then some .stackUnderflow else none
  | .jp _ => none
  | .call _ => if s.sp.val = 16 then some .stackOverflow else none
  | .seImm _ _ => none
  | .sneImm _ _ => none
  | .seReg _ _ => none
  | .ldImm _ _ => none
  | .addImm _ _ => none
  | .ldReg _ _ => none
  | .orReg _ _ => none
  | .andReg _ _ => none
  | .xorReg _ _ => none
  | .addReg _ _ => none
  | .sub _ _ => none
  | .shr _ _ => none
  | .subn _ _ => none
  | .shl _ _ => none
  | .sneReg _ _ => none
  | .ldI _ => none
  | .jpV0 _ => none
  | .rnd _ _ => none
  | .drw _ _ n => if 0 < n ∧ 0xFFF < s.i.toNat + n - 1 then some .memoryOutOfRange else none
  | .skp _ => none
  | .sknp _ => none
  | .ldVxDt _ => none
  | .ldVxK _ => none
  | .ldDtVx _ => none
  | .ldStVx _ => none
  | .addI _ => none
  | .ldF _ => none
  | .ldB _ => if 0xFFF < s.i.toNat + 2 then some .memoryOutOfRange else none
  | .ldMemVx x => if 0xFFF < s.i.toNat + x.val then some .memoryOutOfRange else none
  | .ldVxMem x => if 0xFFF < s.i.toNat + x.val then some .memoryOutOfRange else none

/-- The error of the `STEP` from a state, if it has one: fetch, then decode, then execute (rule R127). -/
def stepFault (s : State) : Option Fault :=
  if 0xFFE < s.pc.toNat then some .memoryOutOfRange
  else
    match decodeWord (wordAtPc s) with
    | .error _ => some .unknownOpcode
    | .ok i => execFault i s

/-- The pieces of state the execute phase of an instruction may write (rule R27's engine column). -/
def writes (i : Instr) : List Part :=
  match i with
  | .cls => [.fb, .needsRedraw, .pc]
  | .ret => [.sp, .pc]
  | .jp _ => [.pc]
  | .call _ => [.stack, .sp, .pc]
  | .seImm _ _ => [.pc]
  | .sneImm _ _ => [.pc]
  | .seReg _ _ => [.pc]
  | .ldImm _ _ => [.v, .pc]
  | .addImm _ _ => [.v, .pc]
  | .ldReg _ _ => [.v, .pc]
  | .orReg _ _ => [.v, .pc]
  | .andReg _ _ => [.v, .pc]
  | .xorReg _ _ => [.v, .pc]
  | .addReg _ _ => [.v, .pc]
  | .sub _ _ => [.v, .pc]
  | .shr _ _ => [.v, .pc]
  | .subn _ _ => [.v, .pc]
  | .shl _ _ => [.v, .pc]
  | .sneReg _ _ => [.pc]
  | .ldI _ => [.i, .pc]
  | .jpV0 _ => [.pc]
  | .rnd _ _ => [.v, .pc]
  | .drw _ _ _ => [.v, .fb, .needsRedraw, .pc]
  | .skp _ => [.pc]
  | .sknp _ => [.pc]
  | .ldVxDt _ => [.v, .pc]
  | .ldVxK _ => [.v, .blockedOnKey, .pc]
  | .ldDtVx _ => [.dt, .pc]
  | .ldStVx _ => [.st, .pc]
  | .addI _ => [.i, .pc]
  | .ldF _ => [.i, .pc]
  | .ldB _ => [.mem, .pc]
  | .ldMemVx _ => [.mem, .pc]
  | .ldVxMem _ => [.v, .pc]

end Sys2Proof.Machine
end

