-- ==== Sys2Proof/Certificates/Slice0/Obligations.lean ====
section
/-! DEFINITION. The statements for the provers, from the numbered rules of spec/. -/

open Sys2Proof Sys2Proof.Machine

namespace Sys2Proof.Machine

/-- Every word that selects the row `(mask, mtch)` decodes to the instruction `mk` reads from it. -/
def RowDecodes (mask mtch : Word) (mk : Word → Instr) : Prop :=
  ∀ w, w &&& mask = mtch → decodeWord w = .ok (mk w)

/-- `pc` has advanced by 2, as naturals (rule R63). -/
def Advanced (s t : State) : Prop := t.pc.toNat = s.pc.toNat + 2

/-- `pc` has advanced by 4 if `c` holds, else by 2, as naturals (rule R85 a). -/
def SkippedIff (c : Prop) (s t : State) : Prop :=
  (c → t.pc.toNat = s.pc.toNat + 4) ∧ (¬c → t.pc.toNat = s.pc.toNat + 2)

/-- Only `V[x]` and `pc` may differ. -/
def OnlyVxChanged (x : RegNum) (s t : State) : Prop :=
  SameRegsExcept [x] s t ∧ SameExcept [.v, .pc] s t

/-- Only `V[x]`, the flag register `V[15]` and `pc` may differ. -/
def OnlyVxAndFlagChanged (x : RegNum) (s t : State) : Prop :=
  SameRegsExcept [x, VF] s t ∧ SameExcept [.v, .pc] s t

/-- The `n`-row sprite at `I` drawn at `(x0, y0)` covers `FB[cy][cx]`: some set bit of its rows lands
there, bit `7 - col` at column offset `col`, each coordinate wrapped by itself (rule R97). -/
def SpriteCovers (s : State) (x0 y0 : Byte) (n : Nat) (cx : Fin 64) (cy : Fin 32) : Prop :=
  ∃ row col, row < n ∧ col < 8 ∧ (s.readByte (s.i.toNat + row)).getLsbD (7 - col) = true ∧
    cx.val = (x0.toNat + col) % 64 ∧ cy.val = (y0.toNat + row) % 32

/-- `FB` is the old one with exactly the pixels under the sprite inverted. -/
def SpriteXored (s t : State) (x0 y0 : Byte) (n : Nat) : Prop :=
  ∀ cx cy, (SpriteCovers s x0 y0 n cx cy → t.fb.pixel cx cy = !s.fb.pixel cx cy) ∧
    (¬SpriteCovers s x0 y0 n cx cy → t.fb.pixel cx cy = s.fb.pixel cx cy)

/-- A pixel that was set lies under the sprite. -/
def SpriteCollides (s : State) (x0 y0 : Byte) (n : Nat) : Prop :=
  ∃ cx cy, SpriteCovers s x0 y0 n cx cy ∧ s.fb.pixel cx cy = true

/-- The `STEP` from `s` would execute `i`. -/
def AboutToRun (i : Instr) (s : State) : Prop :=
  Fetchable s ∧ decodeWord (wordAtPc s) = .ok i

/-- Some key is pressed. -/
def SomeKeyPressed (s : State) : Prop := ∃ c, c < 16 ∧ s.k.getLsbD c = true

end Sys2Proof.Machine

/-! ## Encoding -/

/-- Words written out from the encodings of rule R50, one or two of each family, decode to the
instructions they stand for. -/
def Obligations.WrittenOutWordsDecode : Prop :=
  decodeWord 0b0000000011100000#16 = .ok .cls ∧
  decodeWord 0b0010001000001010#16 = .ok (.call 0x20A) ∧
  decodeWord 0b0111001100000010#16 = .ok (.addImm 3 0x02) ∧
  decodeWord 0b1000000100100100#16 = .ok (.addReg 1 2) ∧
  decodeWord 0b1000000100101110#16 = .ok (.shl 1 2) ∧
  decodeWord 0b1101000000010101#16 = .ok (.drw 0 1 5) ∧
  decodeWord 0b1110001110100001#16 = .ok (.sknp 3) ∧
  decodeWord 0b1111001100110011#16 = .ok (.ldB 3) ∧
  decodeWord 0b0101000100100001#16 = .error .unknownOpcode ∧
  decodeWord 0b1111111111111111#16 = .error .unknownOpcode

/-- Rule R46: every field is the source's mask-before-shift extraction. -/
def Obligations.FieldsAreMaskedThenShifted : Prop :=
  ∀ w : Word,
    fieldG w = (w &&& 0xF000#16).toNat >>> 12 ∧
    (fieldX w).val = (w &&& 0x0F00#16).toNat >>> 8 ∧
    (fieldY w).val = (w &&& 0x00F0#16).toNat >>> 4 ∧
    fieldN w = (w &&& 0x000F#16).toNat ∧
    (fieldNN w).toNat = (w &&& 0x00FF#16).toNat ∧
    fieldNNN w = (w &&& 0x0FFF#16).toNat

/-- Decoding the word of a well-formed instruction, every operand at every value the encoding admits,
gives the instruction back; over bytes too, leaving the bytes that follow. -/
def Obligations.DecodeOfEncodeIsIdentity : Prop :=
  ∀ i : Instr, i.wellFormed = true →
    decodeWord (encode i) = .ok i ∧
    ∀ rest, decode (bytesOfWord (encode i) ++ rest) = .ok (i, rest)

/-- A word that decodes is the word of what it decodes to, and that is well formed: no bit is dropped,
the unused `Y` of `8XY6` and `8XYE` (rule R48) included. -/
def Obligations.EncodeOfDecodeIsIdentity : Prop :=
  ∀ (w : Word) (i : Instr), decodeWord w = .ok i → encode i = w ∧ i.wellFormed = true

/-- Rules R50 and R51: the rows are disjoint, a word that selects a row decodes to that row's
instruction, and a word that selects none is `UnknownOpcode`. That `5XYN` and `9XYN` with `N != 0` are
unrecognized is the spec's decision D22 (log 20). -/
def Obligations.DecodeAcceptsExactlyTheOpcodeMap : Prop :=
  opcodeMap.length = 34 ∧
  (∀ w, ∀ r ∈ opcodeMap, ∀ r' ∈ opcodeMap, selectsRow w r → selectsRow w r' → r = r') ∧
  (∀ w i, decodeWord w = .ok i → selectsRow w (opcodeRow i) ∧ opcodeRow i ∈ opcodeMap) ∧
  (∀ w, ∀ r ∈ opcodeMap, selectsRow w r → ∃ i, decodeWord w = .ok i ∧ opcodeRow i = r) ∧
  (∀ w, (∀ r ∈ opcodeMap, ¬selectsRow w r) → decodeWord w = .error .unknownOpcode)

/-! ## The STEP -/

/-- When the bytes at `pc` decode to an instruction, that instruction is well formed and `step` is
`exec` of it followed by the timer phase: each nonzero timer loses one, and everything else is as `exec`
left it (the model's `rnd` input is dropped, log 1); an error of `exec` is the error of the `STEP`. -/
def Obligations.StepRunsTheDecodedInstruction : Prop :=
  ∀ (s : State) (i : Instr), AboutToRun i s →
    i.wellFormed = true ∧
    (∀ u, exec i s = .next u → ∃ t, step s = .next t ∧ t.dt.toNat = u.dt.toNat - 1 ∧
      t.st.toNat = u.st.toNat - 1 ∧ SameExcept [.dt, .st, .rnd] u t ∧
      t.rndInput = none ∧ t.draws = u.draws + 1) ∧
    (∀ kind, exec i s = .fault kind → step s = .fault kind)

/-- The host's placing of a word makes it the word at `pc`, the one the next `step` decodes, and changes
no byte but those two and no other piece of state (log 15). -/
def Obligations.PlacedWordIsTheNextInstruction : Prop :=
  ∀ (s : State) (w : Word), Fetchable s →
    wordAtPc (s.withFetchWord 16 w.toNat) = w ∧
    SameMemoryOutside s.pc.toNat 2 s (s.withFetchWord 16 w.toNat) ∧
    SameExcept [.mem] s (s.withFetchWord 16 w.toNat)

/-- Rules R121 to R125 and R127: a `STEP` ends with an error exactly when its first failing phase has
one: fetch, then decode, then execute. That an address out of range faults and is not wrapped is the
spec's decisions D6 and D7 (logs 7, 8). -/
def Obligations.StepFaultsExactlyInPriorityOrder : Prop :=
  ∀ (s : State) (kind : Fault), step s = .fault kind ↔ stepFault s = some kind

/-- Rules R66, R69 and R124: a `STEP` with no error completes; no `STEP` is refused, and none ends with
`ProgramTooLarge`. -/
def Obligations.StepCompletesOrFaults : Prop :=
  ∀ s : State, (stepFault s = none → StepCompletes s) ∧
    (∀ r, step s ≠ .refused r) ∧ step s ≠ .fault .programTooLarge

/-- Rule R126: an operation that returns an error kind leaves the entire state as it was, and pulses no
tone. The spec's decisions D3 and D4 (log 5). -/
def Obligations.ErrorsLeaveTheStateUnchanged : Prop :=
  ∀ (op : Op) (s : State) (kind : Fault), (operate op s).result = .error kind →
    (operate op s).state = s ∧ (operate op s).toneRequest = false

/-- Rule R129: a `STEP` that faults faults again with the same kind, whatever keys and whatever byte the
host hands over in between. Rests on rule R126, the spec's decisions D3 and D4 (log 5). -/
def Obligations.FaultingStepFaultsAgain : Prop :=
  ∀ (s : State) (kind : Fault), step s = .fault kind →
    ∀ (keys : BitVec 16) (rnd : Byte), step ((s.setKeys keys).withRnd rnd) = .fault kind

/-- Rules R64, R105 and R106: at the end of a completed `STEP` each timer is one less (or 0) than what
`FX15` or `FX18` has just written to it, or than it was, whatever the instruction and whatever the other
timer. -/
def Obligations.EveryCompletedStepCountsBothTimersDown : Prop :=
  ∀ (s t : State) (i : Instr), AboutToRun i s → step s = .next t →
    (∀ x, i = .ldDtVx x → t.dt.toNat = (s.getV x).toNat - 1) ∧
    ((∀ x, i ≠ .ldDtVx x) → t.dt.toNat = s.dt.toNat - 1) ∧
    (∀ x, i = .ldStVx x → t.st.toNat = (s.getV x).toNat - 1) ∧
    ((∀ x, i ≠ .ldStVx x) → t.st.toNat = s.st.toNat - 1)

/-- Rule R65: `tone_request` is 1 exactly in a completed `STEP` whose timer phase takes `ST` from 1 to 0.
Which `STEP` carries the pulse is the spec's decision D14 (log 13). -/
def Obligations.TonePulsesWhenSoundTimerLeavesOne : Prop :=
  ∀ (s : State) (rnd : Byte) (i : Instr), AboutToRun i s →
    ((operate (.step rnd) s).toneRequest = true ↔
      (operate (.step rnd) s).result = .ok ∧
        ((∃ x, i = .ldStVx x ∧ (s.getV x).toNat = 1) ∨ ((∀ x, i ≠ .ldStVx x) ∧ s.st.toNat = 1))) ∧
    ((operate (.step rnd) s).outputs.toneActive = true ↔ 0 < (operate (.step rnd) s).state.st.toNat)

/-- Rules R68 and R82: a `STEP` whose instruction is not `CXNN` gives the same outcome for every byte
the host hands over. -/
def Obligations.RandomByteReachesOnlyCXNN : Prop :=
  ∀ (s : State) (i : Instr) (b b' : Byte), AboutToRun i s → (∀ x nn, i ≠ .rnd x nn) →
    step (s.withRnd b) = step (s.withRnd b')

/-- Rule R21: only `EX9E`, `EXA1` and `FX0A` read the key table. -/
def Obligations.KeysReachOnlyTheKeyInstructions : Prop :=
  ∀ (s t : State) (i : Instr) (keys : BitVec 16),
    (∀ x, i ≠ .skp x) → (∀ x, i ≠ .sknp x) → (∀ x, i ≠ .ldVxK x) →
    exec i s = .next t → exec i (s.setKeys keys) = .next (t.setKeys keys)

/-- Rule R27, the engine's column: an instruction changes only the pieces of state the table lets it, and
a completed `STEP` these and the two timers. -/
def Obligations.EngineWritesOnlyWhatItsTableSays : Prop :=
  ∀ (i : Instr) (s t : State),
    (exec i s = .next t → SameExcept (writes i) s t) ∧
    (AboutToRun i s → step s = .next t → SameExcept (writes i ++ [.dt, .st, .rnd]) s t)

/-- Rules R38, R39 and R41: registers that `FX55` stores over the next instruction are the word the next
`STEP` fetches. -/
def Obligations.StoreIsSeenByTheNextFetch : Prop :=
  ∀ (s : State) (x r r' : RegNum), AboutToRun (.ldMemVx x) s → s.i.toNat + x.val ≤ 0xFFF →
    s.i.toNat + r.val = s.pc.toNat + 2 → r'.val = r.val + 1 → r'.val ≤ x.val →
    ∃ t, step s = .next t ∧ wordAtPc t = wordOfBytes (s.getV r) (s.getV r')

/-! ## Invariants -/

/-- The state after `RESET` meets the invariants of rule R25 and, beside them, the canonical form of memory,
which is the model's own representation (log 22), whatever the `FONT` (held in `State.font`, log 29). -/
def Obligations.ResetMeetsTheInvariants : Prop :=
  ∀ font : Font, Inv (State.resetWith font) ∧ BlockedInv (State.resetWith font)

/-- Rule R25: from every state that meets the invariants (not only from reachable ones), a `STEP` gives
a state that meets them: `I <= 0xFFF`, `pc <= 0x10FE`, the pushed addresses in range, and memory in its
canonical form, which is the model's own representation (log 22). -/
def Obligations.StepKeepsTheInvariants : Prop :=
  ∀ s t : State, Inv s → step s = .next t → Inv t

/-- Rule R25: the invariants hold in every state reachable from `RESET`, with any `FONT`, by `LOAD`, `STEP` and the host's
writes, in any order and number. The canonical form of memory among them is the model's own
representation (log 22). -/
def Obligations.ReachableStatesMeetTheInvariants : Prop :=
  ∀ s : State, Reachable s → Inv s

/-- Rules R23, R25 (last line) and R67: while `blockedOnKey = 1`, `pc` addresses an `FX0A`; every `STEP`
and both host writes keep it so. The spec's decision D11 (log 12). -/
def Obligations.BlockedFlagMeansPcIsAtFX0A : Prop :=
  (∀ s t : State, BlockedInv s → step s = .next t → BlockedInv t) ∧
  (∀ (s : State) (keys : BitVec 16), BlockedInv s → BlockedInv (s.setKeys keys)) ∧
  (∀ s : State, BlockedInv s → BlockedInv s.clearRedraw)

/-- Rule R150 (a), (b): a jump to its own address, and an `FX0A` with no key pressed, run without error
for any number of `STEP`s. -/
def Obligations.IdleLoopsNeverFault : Prop :=
  ∀ (n : Nat) (s : State),
    (AboutToRun (.jp s.pc.toNat) s → SafeFor n s) ∧
    ((∃ x, AboutToRun (.ldVxK x) s) → ¬SomeKeyPressed s → SafeFor n s)

/-! ## RESET, LOAD and the host's writes -/

/-- Rules R24 and R140: what `RESET` leaves, from any state and for any `FONT` (the parameter, which the
model holds in `State.font`, log 29). -/
def Obligations.ResetLeavesTheseValues : Prop :=
  ∀ s : State, ∃ t, operate .reset s = ⟨t, .ok, false⟩ ∧
    (∀ a, (h : a < 80) → t.readByte a = s.font[a]) ∧
    (∀ a, 80 ≤ a → a ≤ 0xFFF → t.readByte a = 0) ∧
    (∀ r, t.getV r = 0) ∧ t.i = 0 ∧ t.pc = 0x200 ∧ (∀ j : Fin 16, t.stack[j] = 0) ∧ t.sp = 0 ∧
    t.dt = 0 ∧ t.st = 0 ∧ (∀ x y, t.fb.pixel x y = false) ∧ (∀ c, c < 16 → t.k.getLsbD c = false) ∧
    t.needsRedraw = true ∧ t.blockedOnKey = false ∧ t.toneActive = false

/-- Rules R124 and R142: an image of at most 3584 bytes lands at `0x200` on, byte for byte, and nothing
else changes; a longer one is `ProgramTooLarge` and changes nothing. That `LOAD` is legal in any state is
the spec's decision D18 (log 18). -/
def Obligations.LoadCopiesTheImageOrRefusesIt : Prop :=
  ∀ (bytes : List Byte) (s : State),
    (bytes.length ≤ 3584 → ∃ t, operate (.load bytes) s = ⟨t, .ok, false⟩ ∧
      (∀ j, (h : j < bytes.length) → t.readByte (0x200 + j) = bytes[j]) ∧
      SameMemoryOutside 0x200 bytes.length s t ∧ SameExcept [.mem] s t) ∧
    (3584 < bytes.length → operate (.load bytes) s = ⟨s, .error .programTooLarge, false⟩)

/-- Rules R4, R22 and R27, the host's column: the host's two writes change `K`, or clear `needsRedraw`,
and nothing else. That a host write ends as `ok` with no pulse is the model's choice (log 30). -/
def Obligations.HostWritesOnlyKeysAndRedraw : Prop :=
  ∀ (s : State) (keys : BitVec 16),
    (∃ t, operate (.setKeys keys) s = ⟨t, .ok, false⟩ ∧ t.k = keys ∧ SameExcept [.k] s t) ∧
    (∃ t, operate .clearRedraw s = ⟨t, .ok, false⟩ ∧ t.needsRedraw = false ∧
      SameExcept [.needsRedraw] s t)

/-! ## Arithmetic and logic -/

/-- Rule R71, `6XNN`. -/
def Obligations.LoadImmediateWritesVx : Prop :=
  RowDecodes 0xF000 0x6000 (fun w => .ldImm (fieldX w) (fieldNN w)) ∧
  ∀ (x : RegNum) (nn : Byte) (s : State), Fetchable s →
    ∃ t, exec (.ldImm x nn) s = .next t ∧ t.getV x = nn ∧ OnlyVxChanged x s t ∧ Advanced s t

/-- Rule R72, `7XNN`: wraps, no carry flag. -/
def Obligations.AddImmediateWrapsWithoutFlag : Prop :=
  RowDecodes 0xF000 0x7000 (fun w => .addImm (fieldX w) (fieldNN w)) ∧
  ∀ (x : RegNum) (nn : Byte) (s : State), Fetchable s →
    ∃ t, exec (.addImm x nn) s = .next t ∧
      (t.getV x).toNat = ((s.getV x).toNat + nn.toNat) % 256 ∧ OnlyVxChanged x s t ∧ Advanced s t

/-- Rule R73, `8XY0`. -/
def Obligations.CopyRegisterWritesVx : Prop :=
  RowDecodes 0xF00F 0x8000 (fun w => .ldReg (fieldX w) (fieldY w)) ∧
  ∀ (x y : RegNum) (s : State), Fetchable s →
    ∃ t, exec (.ldReg x y) s = .next t ∧ t.getV x = s.getV y ∧ OnlyVxChanged x s t ∧ Advanced s t

/-- Rules R74, R75 and R76, `8XY1`, `8XY2`, `8XY3`: bit by bit, `V[15]` not written. -/
def Obligations.BitwiseOperationsWriteVxOnly : Prop :=
  RowDecodes 0xF00F 0x8001 (fun w => .orReg (fieldX w) (fieldY w)) ∧
  RowDecodes 0xF00F 0x8002 (fun w => .andReg (fieldX w) (fieldY w)) ∧
  RowDecodes 0xF00F 0x8003 (fun w => .xorReg (fieldX w) (fieldY w)) ∧
  ∀ (x y : RegNum) (s : State), Fetchable s →
    (∃ t, exec (.orReg x y) s = .next t ∧ OnlyVxChanged x s t ∧ Advanced s t ∧
      ∀ b, (t.getV x).getLsbD b = ((s.getV x).getLsbD b || (s.getV y).getLsbD b)) ∧
    (∃ t, exec (.andReg x y) s = .next t ∧ OnlyVxChanged x s t ∧ Advanced s t ∧
      ∀ b, (t.getV x).getLsbD b = ((s.getV x).getLsbD b && (s.getV y).getLsbD b)) ∧
    (∃ t, exec (.xorReg x y) s = .next t ∧ OnlyVxChanged x s t ∧ Advanced s t ∧
      ∀ b, (t.getV x).getLsbD b = ((s.getV x).getLsbD b ^^ (s.getV y).getLsbD b))

/-- Rules R70 and R77, `8XY4`, for every `X` and `Y`: the wrapped sum in `V[X]`, the carry in `V[15]`
unless `X = 15`, where the sum stays. That the operands are latched (`Y = 15`, `X = 15`) is the spec's
decision D5 (log 6). -/
def Obligations.AddRegistersCarriesIntoVF : Prop :=
  ∀ (x y : RegNum) (s : State), Fetchable s →
    ∃ t, exec (.addReg x y) s = .next t ∧
      (t.getV x).toNat = ((s.getV x).toNat + (s.getV y).toNat) % 256 ∧
      (x ≠ VF → 255 < (s.getV x).toNat + (s.getV y).toNat → t.getV VF = 1) ∧
      (x ≠ VF → (s.getV x).toNat + (s.getV y).toNat ≤ 255 → t.getV VF = 0) ∧
      (x ≠ VF → (t.getV VF).toNat * 256 + (t.getV x).toNat = (s.getV x).toNat + (s.getV y).toNat) ∧
      OnlyVxAndFlagChanged x s t ∧ Advanced s t

/-- Rules R70, R78 and R80, `8XY5` and `8XY7`, for every `X` and `Y`: the wrapped difference in `V[X]`,
no-borrow in `V[15]` unless `X = 15`. Operands latched: the spec's decision D5 (log 6). -/
def Obligations.SubtractionsWriteNoBorrowIntoVF : Prop :=
  ∀ (x y : RegNum) (s : State), Fetchable s →
    (∃ t, exec (.sub x y) s = .next t ∧
      ((t.getV x).toNat : Int) = ((s.getV x).toNat - (s.getV y).toNat : Int) % 256 ∧
      (x ≠ VF → (s.getV y).toNat ≤ (s.getV x).toNat → t.getV VF = 1) ∧
      (x ≠ VF → (s.getV x).toNat < (s.getV y).toNat → t.getV VF = 0) ∧
      OnlyVxAndFlagChanged x s t ∧ Advanced s t) ∧
    (∃ t, exec (.subn x y) s = .next t ∧
      ((t.getV x).toNat : Int) = ((s.getV y).toNat - (s.getV x).toNat : Int) % 256 ∧
      (x ≠ VF → (s.getV x).toNat ≤ (s.getV y).toNat → t.getV VF = 1) ∧
      (x ≠ VF → (s.getV y).toNat < (s.getV x).toNat → t.getV VF = 0) ∧
      OnlyVxAndFlagChanged x s t ∧ Advanced s t)

/-- Rules R70, R79 and R81, `8XY6` and `8XYE`, for every `X` and `Y`: `V[X]` shifted by one, the lost
bit in `V[15]` unless `X = 15`, `V[Y]` neither read nor written. Operand latched: the spec's decision D5
(log 6). -/
def Obligations.ShiftsWriteTheLostBitIntoVF : Prop :=
  ∀ (x y : RegNum) (s : State), Fetchable s →
    (∃ t, exec (.shr x y) s = .next t ∧ (t.getV x).toNat = (s.getV x).toNat / 2 ∧
      (x ≠ VF → (t.getV VF).toNat = (s.getV x).toNat % 2) ∧
      OnlyVxAndFlagChanged x s t ∧ Advanced s t) ∧
    (∃ t, exec (.shl x y) s = .next t ∧ (t.getV x).toNat = (s.getV x).toNat * 2 % 256 ∧
      (x ≠ VF → (t.getV VF).toNat = (s.getV x).toNat / 128) ∧
      OnlyVxAndFlagChanged x s t ∧ Advanced s t)

/-- Rules R82 and R136, `CXNN`: it always completes, `V[X]` is the masked byte the host handed over, and
without one it is the mask of some byte. The byte is a free value (decision D15, log 1). -/
def Obligations.RandomWritesMaskedByte : Prop :=
  ∀ (x : RegNum) (nn : Byte) (s : State), Fetchable s →
    (∃ t, exec (.rnd x nn) s = .next t ∧ (∃ b : Byte, t.getV x = b &&& nn) ∧
      OnlyVxChanged x s t ∧ Advanced s t) ∧
    (∀ b : Byte, ∃ t, exec (.rnd x nn) (s.withRnd b) = .next t ∧ t.getV x = b &&& nn)

/-! ## Control flow -/

/-- Rule R87, `1NNN`. -/
def Obligations.JumpSetsPc : Prop :=
  RowDecodes 0xF000 0x1000 (fun w => .jp (fieldNNN w)) ∧
  ∀ (nnn : Nat) (s : State), (Instr.jp nnn).wellFormed = true →
    ∃ t, exec (.jp nnn) s = .next t ∧ t.pc.toNat = nnn ∧ SameExcept [.pc] s t

/-- Rule R89, `BNNN`: `V[0] + NNN`, as naturals. That the sum is held above `0xFFF` is the spec's
decision D6 (log 7). -/
def Obligations.JumpWithOffsetAddsV0 : Prop :=
  ∀ (nnn : Nat) (s : State), (Instr.jpV0 nnn).wellFormed = true →
    ∃ t, exec (.jpV0 nnn) s = .next t ∧ t.pc.toNat = (s.getV 0).toNat + nnn ∧ SameExcept [.pc] s t

/-- Rules R88 and R122, `2NNN`: with a free slot, `pc + 2` goes into slot `SP`, `SP` grows by one, `pc`
is `NNN`; with 16 entries it is `StackOverflow`. Slots are 16 bits wide by the spec's decision D8
(log 9). -/
def Obligations.CallPushesReturnAddress : Prop :=
  ∀ (nnn : Nat) (s : State), (Instr.call nnn).wellFormed = true → Fetchable s →
    (∀ h : s.sp.val < 16, ∃ t, exec (.call nnn) s = .next t ∧
      t.stack[s.sp.val].toNat = s.pc.toNat + 2 ∧ t.sp.val = s.sp.val + 1 ∧ t.pc.toNat = nnn ∧
      (∀ j : Fin 16, j.val ≠ s.sp.val → t.stack[j] = s.stack[j]) ∧
      SameExcept [.stack, .sp, .pc] s t) ∧
    (s.sp.val = 16 → exec (.call nnn) s = .fault .stackOverflow)

/-- Rules R86 and R123, `00EE`: with an entry, `SP` shrinks by one and `pc` is the slot it vacates; the
slot keeps its value (decision D8, log 9); with none it is `StackUnderflow`. -/
def Obligations.ReturnPopsIntoPc : Prop :=
  ∀ s : State,
    (∀ h : 0 < s.sp.val, ∃ t, exec .ret s = .next t ∧ t.sp.val = s.sp.val - 1 ∧
      t.pc = s.stack[s.sp.val - 1]'(by omega) ∧ SameExcept [.sp, .pc] s t) ∧
    (s.sp.val = 0 → exec .ret s = .fault .stackUnderflow)

/-- Rules R86 and R88: a `2NNN` followed at once by an `00EE` comes back to the address after the call,
with the depth it had, in two `STEP`s; of the stack only the slot the call wrote can differ, and besides
it and `pc` only the timers (and the model's carrier of `rnd`, log 1). -/
def Obligations.CallThenReturnComesBack : Prop :=
  ∀ (s : State) (nnn : Nat), AboutToRun (.call nnn) s → s.sp.val < 16 → nnn ≤ 0xFFE →
    wordOfBytes (s.readByte nnn) (s.readByte (nnn + 1)) = 0x00EE →
    ∃ t u, step s = .next t ∧ step t = .next u ∧ u.pc.toNat = s.pc.toNat + 2 ∧ u.sp = s.sp ∧
      (∀ j : Fin 16, j.val ≠ s.sp.val → u.stack[j] = s.stack[j]) ∧
      SameExcept [.pc, .stack, .dt, .st, .rnd] s u

/-- Rules R90 and R91, `3XNN` and `4XNN`. -/
def Obligations.ImmediateSkipsCompareVx : Prop :=
  RowDecodes 0xF000 0x3000 (fun w => .seImm (fieldX w) (fieldNN w)) ∧
  RowDecodes 0xF000 0x4000 (fun w => .sneImm (fieldX w) (fieldNN w)) ∧
  ∀ (x : RegNum) (nn : Byte) (s : State), Fetchable s →
    (∃ t, exec (.seImm x nn) s = .next t ∧ SkippedIff (s.getV x = nn) s t ∧ SameExcept [.pc] s t) ∧
    (∃ t, exec (.sneImm x nn) s = .next t ∧ SkippedIff (s.getV x ≠ nn) s t ∧ SameExcept [.pc] s t)

/-- Rules R92 and R93, `5XY0` and `9XY0`. (That their rows ask for `N = 0` is the spec's decision D22,
log 20.) -/
def Obligations.RegisterSkipsCompareVxVy : Prop :=
  RowDecodes 0xF00F 0x5000 (fun w => .seReg (fieldX w) (fieldY w)) ∧
  RowDecodes 0xF00F 0x9000 (fun w => .sneReg (fieldX w) (fieldY w)) ∧
  ∀ (x y : RegNum) (s : State), Fetchable s →
    (∃ t, exec (.seReg x y) s = .next t ∧ SkippedIff (s.getV x = s.getV y) s t ∧
      SameExcept [.pc] s t) ∧
    (∃ t, exec (.sneReg x y) s = .next t ∧ SkippedIff (s.getV x ≠ s.getV y) s t ∧
      SameExcept [.pc] s t)

/-! ## Display -/

/-- Rule R96, `00E0`. -/
def Obligations.ClearScreenBlanksEveryPixel : Prop :=
  RowDecodes 0xFFFF 0x00E0 (fun _ => .cls) ∧
  ∀ s : State, Fetchable s →
    ∃ t, exec .cls s = .next t ∧ (∀ x y, t.fb.pixel x y = false) ∧ t.needsRedraw = true ∧
      SameExcept [.fb, .needsRedraw, .pc] s t ∧ Advanced s t

/-- Rules R95 and R97, `DXYN`, for every `X`, `Y` and `N`: where the sprite fits in memory the pixels
under it are inverted, each coordinate wrapped, `V[15]` is the collision, `needsRedraw` is set and
nothing else changes. Bit 7 leftmost is the spec's general-knowledge decision D12 (log 3); latching is
D5 (log 6). -/
def Obligations.DrawXorsSpriteAndReportsCollision : Prop :=
  ∀ (x y : RegNum) (n : Nat) (s : State), (Instr.drw x y n).wellFormed = true → Fetchable s →
    (n = 0 ∨ s.i.toNat + n - 1 ≤ 0xFFF) →
    ∃ t, exec (.drw x y n) s = .next t ∧ SpriteXored s t (s.getV x) (s.getV y) n ∧
      (SpriteCollides s (s.getV x) (s.getV y) n → t.getV VF = 1) ∧
      (¬SpriteCollides s (s.getV x) (s.getV y) n → t.getV VF = 0) ∧
      t.needsRedraw = true ∧ SameRegsExcept [VF] s t ∧
      SameExcept [.v, .fb, .needsRedraw, .pc] s t ∧ Advanced s t

/-- Rule R97, the source's property: the same sprite drawn twice at the same place (neither coordinate
in `V[15]`) restores the framebuffer, and reports a collision on the second draw iff the first one lit a
pixel. -/
def Obligations.DrawingTwiceRestoresTheScreen : Prop :=
  ∀ (x y : RegNum) (n : Nat) (s t u : State), x ≠ VF → y ≠ VF →
    exec (.drw x y n) s = .next t → exec (.drw x y n) t = .next u →
    (∀ cx cy, u.fb.pixel cx cy = s.fb.pixel cx cy) ∧
    (u.getV VF = 1 ↔ ∃ cx cy, s.fb.pixel cx cy = false ∧ t.fb.pixel cx cy = true)

/-- Rules R36, R97, R114, R115, R116 and R121: an access that would pass `0xFFF` is `MemoryOutOfRange`.
That the address is not wrapped is the spec's decision D7 (log 8). -/
def Obligations.AccessesBeyondMemoryFault : Prop :=
  ∀ (x y : RegNum) (n : Nat) (s : State),
    (0 < n → 0xFFF < s.i.toNat + n - 1 → exec (.drw x y n) s = .fault .memoryOutOfRange) ∧
    (0xFFF < s.i.toNat + 2 → exec (.ldB x) s = .fault .memoryOutOfRange) ∧
    (0xFFF < s.i.toNat + x.val → exec (.ldMemVx x) s = .fault .memoryOutOfRange) ∧
    (0xFFF < s.i.toNat + x.val → exec (.ldVxMem x) s = .fault .memoryOutOfRange)

/-! ## Timers and keypad -/

/-- Rules R100, R101 and R102, `EX9E` and `EXA1`: one skips iff the key named by `V[X]` is pressed, the
other iff it is not. A value above 15 names no key by the spec's decision D9 (log 10). -/
def Obligations.KeySkipsAreComplements : Prop :=
  ∀ (x : RegNum) (s : State), Fetchable s →
    (∃ t, exec (.skp x) s = .next t ∧
      SkippedIff ((s.getV x).toNat ≤ 15 ∧ s.k.getLsbD (s.getV x).toNat = true) s t ∧
      SameExcept [.pc] s t) ∧
    (∃ t, exec (.sknp x) s = .next t ∧
      SkippedIff (¬((s.getV x).toNat ≤ 15 ∧ s.k.getLsbD (s.getV x).toNat = true)) s t ∧
      SameExcept [.pc] s t)

/-- Rule R103, `FX07`: the value before the timer phase of the same `STEP`. The clause about the `STEP` is
the spec's own derived sentence of R103 ("the value read is `DT` before this `STEP`'s timer phase"). -/
def Obligations.ReadDelayTimerBeforeItsDecrement : Prop :=
  RowDecodes 0xF0FF 0xF007 (fun w => .ldVxDt (fieldX w)) ∧
  ∀ (x : RegNum) (s : State), Fetchable s →
    (∃ t, exec (.ldVxDt x) s = .next t ∧ t.getV x = s.dt ∧ OnlyVxChanged x s t ∧ Advanced s t) ∧
    (AboutToRun (.ldVxDt x) s →
      ∃ t, step s = .next t ∧ t.getV x = s.dt ∧ t.dt.toNat = s.dt.toNat - 1)

/-- Rule R105, `FX15`: the execute phase writes `V[X]`, and the timer phase of the same `STEP` takes one
off it. The clause about the `STEP` is the spec's own derived sentence of R105 ("the timer phase of the
same `STEP` then decrements the new value"). -/
def Obligations.SetDelayTimerWritesDT : Prop :=
  RowDecodes 0xF0FF 0xF015 (fun w => .ldDtVx (fieldX w)) ∧
  ∀ (x : RegNum) (s : State), Fetchable s →
    (∃ t, exec (.ldDtVx x) s = .next t ∧ t.dt = s.getV x ∧ SameExcept [.dt, .pc] s t ∧
      Advanced s t) ∧
    (AboutToRun (.ldDtVx x) s → ∃ t, step s = .next t ∧ t.dt.toNat = (s.getV x).toNat - 1)

/-- Rule R106, `FX18`: as `FX15`, for `ST`; the clause about the `STEP` is the spec's derived sentence. -/
def Obligations.SetSoundTimerWritesST : Prop :=
  ∀ (x : RegNum) (s : State), Fetchable s →
    (∃ t, exec (.ldStVx x) s = .next t ∧ t.st = s.getV x ∧ SameExcept [.st, .pc] s t ∧
      Advanced s t) ∧
    (AboutToRun (.ldStVx x) s → ∃ t, step s = .next t ∧ t.st.toNat = (s.getV x).toNat - 1)

/-- Rule R104, `FX0A` with a key pressed: the lowest pressed key code goes to `V[X]`, `blockedOnKey` is
cleared, `pc` advances. That the lowest is taken is the spec's decision D10 (log 11). -/
def Obligations.KeyWaitStoresTheLowestKey : Prop :=
  ∀ (x : RegNum) (s : State), Fetchable s → SomeKeyPressed s →
    ∃ t, exec (.ldVxK x) s = .next t ∧ (t.getV x).toNat ≤ 15 ∧
      s.k.getLsbD (t.getV x).toNat = true ∧
      (∀ c, c < (t.getV x).toNat → s.k.getLsbD c = false) ∧ t.blockedOnKey = false ∧
      SameRegsExcept [x] s t ∧ SameExcept [.v, .blockedOnKey, .pc] s t ∧ Advanced s t

/-- Rules R67 and R104, `FX0A` with no key pressed: the execute phase sets `blockedOnKey` and changes
nothing else; the `STEP` stays at the `FX0A` while the timers count down (conflict C7). -/
def Obligations.KeyWaitBlocksWithoutKey : Prop :=
  ∀ (x : RegNum) (s : State), ¬SomeKeyPressed s →
    (∃ t, exec (.ldVxK x) s = .next t ∧ t.blockedOnKey = true ∧ SameExcept [.blockedOnKey] s t) ∧
    (AboutToRun (.ldVxK x) s → ∃ t, step s = .next t ∧ t.blockedOnKey = true ∧ t.pc = s.pc ∧
      AboutToRun (.ldVxK x) t ∧ t.dt.toNat = s.dt.toNat - 1 ∧ t.st.toNat = s.st.toNat - 1 ∧
      SameExcept [.blockedOnKey, .dt, .st, .rnd] s t)

/-! ## Index register and memory -/

/-- Rule R111, `ANNN`. -/
def Obligations.LoadIndexWritesI : Prop :=
  RowDecodes 0xF000 0xA000 (fun w => .ldI (fieldNNN w)) ∧
  ∀ (nnn : Nat) (s : State), (Instr.ldI nnn).wellFormed = true → Fetchable s →
    ∃ t, exec (.ldI nnn) s = .next t ∧ t.i.toNat = nnn ∧ SameExcept [.i, .pc] s t ∧ Advanced s t

/-- Rule R112, `FX1E`: modulo 4096, `V[15]` not written. -/
def Obligations.AddToIndexWrapsAt4096 : Prop :=
  RowDecodes 0xF0FF 0xF01E (fun w => .addI (fieldX w)) ∧
  ∀ (x : RegNum) (s : State), Fetchable s →
    ∃ t, exec (.addI x) s = .next t ∧ t.i.toNat = (s.i.toNat + (s.getV x).toNat) % 4096 ∧
      SameExcept [.i, .pc] s t ∧ Advanced s t

/-- Rule R113, `FX29`: the low nibble of `V[X]` times 5. -/
def Obligations.GlyphAddressIsFiveTimesTheDigit : Prop :=
  RowDecodes 0xF0FF 0xF029 (fun w => .ldF (fieldX w)) ∧
  ∀ (x : RegNum) (s : State), Fetchable s →
    ∃ t, exec (.ldF x) s = .next t ∧ t.i.toNat = (s.getV x).toNat % 16 * 5 ∧
      SameExcept [.i, .pc] s t ∧ Advanced s t

/-- Rules R35 and R114, `FX33`: where the three bytes fit, hundreds at `I`, tens at `I+1`, ones at
`I+2`, and no other byte changes. -/
def Obligations.DecimalDigitsAreStoredAtI : Prop :=
  ∀ (x : RegNum) (s : State), Fetchable s → s.i.toNat + 2 ≤ 0xFFF →
    ∃ t, exec (.ldB x) s = .next t ∧
      (t.readByte s.i.toNat).toNat = (s.getV x).toNat / 100 ∧
      (t.readByte (s.i.toNat + 1)).toNat = (s.getV x).toNat / 10 % 10 ∧
      (t.readByte (s.i.toNat + 2)).toNat = (s.getV x).toNat % 10 ∧
      SameMemoryOutside s.i.toNat 3 s t ∧ SameExcept [.mem, .pc] s t ∧ Advanced s t

/-- Rules R35 and R115, `FX55`: where the bytes fit, `V[r]` at `I + r` for every `r` in `0..X`, and no
other byte changes; `I` does not change. -/
def Obligations.StoreRegistersWritesMemoryAtI : Prop :=
  ∀ (x : RegNum) (s : State), Fetchable s → s.i.toNat + x.val ≤ 0xFFF →
    ∃ t, exec (.ldMemVx x) s = .next t ∧
      (∀ r, r ≤ x → t.readByte (s.i.toNat + r.val) = s.getV r) ∧
      SameMemoryOutside s.i.toNat (x.val + 1) s t ∧ SameExcept [.mem, .pc] s t ∧ Advanced s t

/-- Rules R35 and R116, `FX65`: where the bytes fit, `V[r]` is the byte at `I + r` for every `r` in
`0..X`; the registers above `X`, memory and `I` do not change. -/
def Obligations.LoadRegistersReadsMemoryAtI : Prop :=
  ∀ (x : RegNum) (s : State), Fetchable s → s.i.toNat + x.val ≤ 0xFFF →
    ∃ t, exec (.ldVxMem x) s = .next t ∧
      (∀ r, r ≤ x → t.getV r = s.readByte (s.i.toNat + r.val)) ∧
      (∀ r, x < r → t.getV r = s.getV r) ∧ SameExcept [.v, .pc] s t ∧ Advanced s t

/-- Rule R117: registers stored by `FX55` come back by an `FX65` with the same `X` and `I`, whatever
happened to the registers in between, if the stored bytes were left alone. -/
def Obligations.StoreThenLoadRoundTripsRegisters : Prop :=
  ∀ (x : RegNum) (s t u w : State), exec (.ldMemVx x) s = .next t → u.i = s.i →
    (∀ r : RegNum, r ≤ x → u.readByte (s.i.toNat + r.val) = t.readByte (s.i.toNat + r.val)) →
    exec (.ldVxMem x) u = .next w → ∀ r, r ≤ x → w.getV r = s.getV r

/-! ## The parameter FONT -/

/-- Rules R7 and R141: `FONT` is fixed: no operation, whatever its end, changes the model's carrier of it
(log 29). -/
def Obligations.NoOperationChangesTheFont : Prop :=
  ∀ (op : Op) (s : State), (operate op s).state.font = s.font

/-- Rule R141, "No rule of the engine depends on the content of `FONT`": two machines with different
fonts whose memories read alike, and which agree in every other piece of state, make the same `STEP`. It
says too that the list memory is held in (log 22) is never observed. -/
def Obligations.FontReachesAProgramOnlyThroughMemory : Prop :=
  ∀ s s' : State, SameExcept [.font] s s' →
    (∀ t, step s = .next t → ∃ t', step s' = .next t' ∧ SameExcept [.font] t t') ∧
    (∀ kind, step s = .fault kind → step s' = .fault kind)
end

