-- ==== Sys2Proof/Laws/Decode.lean ====
section
/-! SUPPORT. The fields of an encoded word, the fields a row's mask fixes, and that decoding gives
well-formed instructions. -/

namespace Sys2Proof

/-! ## Fields of a word built from a format (rule R47) -/

theorem extract_append_high {n m : Nat} (a : BitVec n) (b : BitVec m) (k l : Nat) :
    (a ++ b).extractLsb' (m + k) l = a.extractLsb' k l := by
  ext j hj
  simp [BitVec.getLsbD_append, Nat.add_assoc]

theorem extract_append_low {n m : Nat} (a : BitVec n) (b : BitVec m) (k l : Nat) (h : k + l ≤ m) :
    (a ++ b).extractLsb' k l = b.extractLsb' k l := by
  ext j hj
  simp [BitVec.getLsbD_append, show k + j < m by omega]

theorem extract_all {n : Nat} (a : BitVec n) : a.extractLsb' 0 n = a := by
  ext j hj
  simp

@[simp] theorem fieldG_wordNNN (g : BitVec 4) (nnn : Nat) : fieldG (wordNNN g nnn) = g.toNat :=
  congrArg BitVec.toNat ((extract_append_high g (BitVec.ofNat 12 nnn) 0 4).trans (extract_all g))

theorem fieldNNN_wordNNN (g : BitVec 4) {nnn : Nat} (h : nnn ≤ 0xFFF) : fieldNNN (wordNNN g nnn) = nnn := by
  have hx := (extract_append_low g (BitVec.ofNat 12 nnn) 0 12 (by omega)).trans (extract_all _)
  exact (congrArg BitVec.toNat hx).trans (by rw [BitVec.toNat_ofNat]; omega)

theorem extract_high (a b : Byte) : (a ++ b : Word).extractLsb' 8 8 = a :=
  (extract_append_high a b 0 8).trans (extract_all a)

theorem extract_low (a b : Byte) : (a ++ b : Word).extractLsb' 0 8 = b :=
  (extract_append_low a b 0 8 (by omega)).trans (extract_all b)

theorem extract_nibble3 (a b : Byte) : (a ++ b : Word).extractLsb' 12 4 = a.extractLsb' 4 4 :=
  extract_append_high a b 4 4

theorem extract_nibble2 (a b : Byte) : (a ++ b : Word).extractLsb' 8 4 = a.extractLsb' 0 4 :=
  extract_append_high a b 0 4

theorem extract_nibble1 (a b : Byte) : (a ++ b : Word).extractLsb' 4 4 = b.extractLsb' 4 4 :=
  extract_append_low a b 4 4 (by omega)

theorem extract_nibble0 (a b : Byte) : (a ++ b : Word).extractLsb' 0 4 = b.extractLsb' 0 4 :=
  extract_append_low a b 0 4 (by omega)

theorem nibbles_high (a b : BitVec 4) : (a ++ b : Byte).extractLsb' 4 4 = a :=
  (extract_append_high a b 0 4).trans (extract_all a)

theorem nibbles_low (a b : BitVec 4) : (a ++ b : Byte).extractLsb' 0 4 = b :=
  (extract_append_low a b 0 4 (by omega)).trans (extract_all b)

@[simp] theorem fieldG_wordXNN (g : BitVec 4) (x : RegNum) (nn : Byte) :
    fieldG (wordXNN g x nn) = g.toNat := by
  rw [fieldG, wordXNN, extract_nibble3, nibbles_high]

@[simp] theorem fieldX_wordXNN (g : BitVec 4) (x : RegNum) (nn : Byte) : fieldX (wordXNN g x nn) = x := by
  rw [fieldX, wordXNN, extract_nibble2, nibbles_low]

@[simp] theorem fieldNN_wordXNN (g : BitVec 4) (x : RegNum) (nn : Byte) :
    fieldNN (wordXNN g x nn) = nn := by
  rw [fieldNN, wordXNN, extract_low]

@[simp] theorem fieldG_wordXYN (g : BitVec 4) (x y : RegNum) (n : Nat) :
    fieldG (wordXYN g x y n) = g.toNat := by
  rw [fieldG, wordXYN, extract_nibble3, nibbles_high]

@[simp] theorem fieldX_wordXYN (g : BitVec 4) (x y : RegNum) (n : Nat) :
    fieldX (wordXYN g x y n) = x := by
  rw [fieldX, wordXYN, extract_nibble2, nibbles_low]

@[simp] theorem fieldY_wordXYN (g : BitVec 4) (x y : RegNum) (n : Nat) :
    fieldY (wordXYN g x y n) = y := by
  rw [fieldY, wordXYN, extract_nibble1, nibbles_high]

theorem fieldN_wordXYN (g : BitVec 4) (x y : RegNum) {n : Nat} (h : n ≤ 15) :
    fieldN (wordXYN g x y n) = n := by
  rw [fieldN, wordXYN, extract_nibble0, nibbles_low, BitVec.toNat_ofNat]
  omega

/-! ## Ranges of the fields -/

theorem fieldG_lt (w : Word) : fieldG w < 16 := (w.extractLsb' 12 4).isLt
theorem fieldN_lt (w : Word) : fieldN w < 16 := (w.extractLsb' 0 4).isLt
theorem fieldNNN_lt (w : Word) : fieldNNN w < 4096 := (w.extractLsb' 0 12).isLt

/-- What the decoder gives has operands that fit their fields. -/
theorem wellFormed_of_decodeWord {w : Word} {i : Instr} (h : decodeWord w = .ok i) :
    i.wellFormed = true := by
  have hnnn := fieldNNN_lt w
  have hn := fieldN_lt w
  unfold decodeWord at h
  split at h
  case h_1 => unfold decodeGroup0 at h; split_ifs at h <;> cases h <;> rfl
  case h_9 => unfold decodeGroup8 at h; split_ifs at h <;> cases h <;> rfl
  case h_15 => unfold decodeGroupE at h; split_ifs at h <;> cases h <;> rfl
  case h_16 => unfold decodeGroupF at h; split_ifs at h <;> cases h <;> rfl
  case h_6 => split_ifs at h; cases h; rfl
  case h_10 => split_ifs at h; cases h; rfl
  case h_17 => cases h
  all_goals
    cases h
    simp [Instr.wellFormed, Instr.addressFits, Instr.rowCountFits]
  all_goals omega

/-! ## Bytes (rule R34) -/

theorem wordOfBytes_high (hi lo : Byte) : (wordOfBytes hi lo).extractLsb' 8 8 = hi := extract_high hi lo
theorem wordOfBytes_low (hi lo : Byte) : (wordOfBytes hi lo).extractLsb' 0 8 = lo := extract_low hi lo

theorem append_extract {n m : Nat} (w : BitVec (n + m)) :
    w.extractLsb' m n ++ w.extractLsb' 0 m = w := by
  apply BitVec.eq_of_getLsbD_eq
  intro j hj
  rw [BitVec.getLsbD_append]
  split
  · next h => simp [h]
  · next h => simp [show j - m < n by omega, show m + (j - m) = j by omega]

theorem wordOfBytes_split (w : Word) : wordOfBytes (w.extractLsb' 8 8) (w.extractLsb' 0 8) = w :=
  append_extract (n := 8) (m := 8) w

theorem decode_bytesOfWord (w : Word) (rest : List Byte) :
    decode (bytesOfWord w ++ rest) =
      match decodeWord w with
      | .ok i => .ok (i, rest)
      | .error r => .error r := by
  cases h : decodeWord w <;>
    simp only [bytesOfWord, List.cons_append, List.nil_append, decode, wordOfBytes_split, h]

end Sys2Proof
end

