-- ==== Sys2Proof/Laws/Memory.lean ====
section
/-! SUPPORT. Memory laws: a read after a write (rule R38), and that every memory operation keeps the
canonical form. -/

namespace Sys2Proof.Machine.Memory

variable {font : Font}

theorem read_insert (m : Memory) (a : Nat) (b : Byte) (c : Nat) :
    read font (insert a b m) c = if c = a then b else read font m c := by
  induction m with
  | nil => simp [insert, read]
  | cons cell m ih =>
    obtain ⟨d, x⟩ := cell
    by_cases h1 : a < d
    · simp [insert, h1, read]
    · by_cases h2 : a = d
      · subst h2
        simp only [insert, lt_irrefl, if_false, if_true, read]
        split <;> rfl
      · simp only [insert, h1, h2, if_false, read, ih]
        split
        · next h => subst h; simp [Ne.symm h2]
        · rfl

theorem read_of_lt_wfAbove {m : Memory} {low a : Nat} (h : wfAbove font low m = true) (ha : a < low) :
    read font m a = background font a := by
  induction m generalizing low with
  | nil => rfl
  | cons cell m ih =>
    obtain ⟨d, x⟩ := cell
    simp only [wfAbove, Bool.and_eq_true, decide_eq_true_eq] at h
    have hd : a ≠ d := by omega
    simp only [read, hd, if_false]
    exact ih h.2 (by omega)

theorem read_erase (m : Memory) (a c : Nat) :
    read font (erase a m) c = if c = a then background font a else read font m c := by
  induction m with
  | nil => by_cases hc : c = a <;> simp [erase, read, hc]
  | cons cell m ih =>
    obtain ⟨d, x⟩ := cell
    by_cases had : a = d
    · subst had
      by_cases hc : c = a
      · subst hc; simpa [erase] using ih
      · simp [erase, read, ih, hc]
    · simp only [erase, had, if_false, read, ih]
      by_cases hc : c = d
      · subst hc; simp [Ne.symm had]
      · simp [hc]

/-- A read after a write of one byte (rule R38). -/
theorem read_write (m : Memory) (a : Nat) (b : Byte) (c : Nat) :
    read font (write font m a b) c = if c = a then b else read font m c := by
  unfold write
  split
  · next hb => rw [read_erase, hb]
  · exact read_insert m a b c

theorem wfAbove_mono {m : Memory} {low low' : Nat} (hl : low' ≤ low) (h : wfAbove font low m = true) :
    wfAbove font low' m = true := by
  cases m with
  | nil => rfl
  | cons cell m =>
    obtain ⟨d, x⟩ := cell
    simp only [wfAbove, Bool.and_eq_true, decide_eq_true_eq] at h ⊢
    exact ⟨⟨⟨by omega, h.1.1.2⟩, h.1.2⟩, h.2⟩

theorem wfAbove_insert {m : Memory} {low a : Nat} {b : Byte} (h : wfAbove font low m = true) (hla : low ≤ a)
    (ha : a < Config.memSize) (hb : b ≠ background font a) : wfAbove font low (insert a b m) = true := by
  induction m generalizing low with
  | nil => simpa [insert, wfAbove, hla, hb] using ha
  | cons cell m ih =>
    obtain ⟨d, x⟩ := cell
    have h' := h
    simp only [wfAbove, Bool.and_eq_true, decide_eq_true_eq] at h
    unfold insert
    split
    · next h1 =>
      simp only [wfAbove, Bool.and_eq_true, decide_eq_true_eq]
      exact ⟨⟨⟨hla, ha⟩, hb⟩, ⟨⟨by omega, h.1.1.2⟩, h.1.2⟩, h.2⟩
    · split
      · next h1 h2 =>
        subst h2
        simp only [wfAbove, Bool.and_eq_true, decide_eq_true_eq]
        exact ⟨⟨⟨hla, ha⟩, hb⟩, h.2⟩
      · next h1 h2 =>
        simp only [wfAbove, Bool.and_eq_true, decide_eq_true_eq]
        exact ⟨h.1, ih h.2 (by omega)⟩

theorem wfAbove_erase {m : Memory} {low : Nat} (h : wfAbove font low m = true) (a : Nat) :
    wfAbove font low (erase a m) = true := by
  induction m generalizing low with
  | nil => rfl
  | cons cell m ih =>
    obtain ⟨d, x⟩ := cell
    simp only [wfAbove, Bool.and_eq_true, decide_eq_true_eq] at h
    unfold erase
    split
    · exact wfAbove_mono (by omega) (ih h.2)
    · simp only [wfAbove, Bool.and_eq_true, decide_eq_true_eq]
      exact ⟨h.1, ih h.2⟩

/-- A write inside the address space keeps the canonical form. -/
theorem wf_write {m : Memory} (h : wf font m = true) {a : Nat} (ha : a < Config.memSize) (b : Byte) :
    wf font (write font m a b) = true := by
  unfold write
  split
  · exact wfAbove_erase h a
  · next hb => exact wfAbove_insert h (Nat.zero_le a) ha hb

/-- Stores inside the address space keep the canonical form. -/
theorem wf_writeBytes {m : Memory} (h : wf font m = true) (bs : List Byte) {a : Nat}
    (ha : bs = [] ∨ a + bs.length ≤ Config.memSize) : wf font (writeBytes font m a bs) = true := by
  induction bs generalizing m a with
  | nil => exact h
  | cons b bs ih =>
    have hlen : a + (bs.length + 1) ≤ Config.memSize := by simpa using ha
    exact ih (wf_write h (by omega) b) (Or.inr (by omega))

theorem wf_reset (font : Font) : wf font (State.resetWith font).mem = true := rfl

/-- A read after storing bytes in a row. -/
theorem read_writeBytes (m : Memory) (bs : List Byte) (a c : Nat) :
    read font (writeBytes font m a bs) c = if a ≤ c ∧ c < a + bs.length then bs.getD (c - a) 0 else read font m c := by
  induction bs generalizing m a with
  | nil => simp only [writeBytes, List.length_nil]; rw [if_neg (by omega)]
  | cons b bs ih =>
    rw [writeBytes, ih, read_write, List.length_cons]
    by_cases h1 : c = a
    · subst h1; simp
    · by_cases h2 : a + 1 ≤ c ∧ c < a + 1 + bs.length
      · have h3 : a ≤ c ∧ c < a + (bs.length + 1) := by omega
        have h4 : c - a = (c - (a + 1)) + 1 := by omega
        rw [if_pos h2, if_pos h3, h4]
        rfl
      · have h3 : ¬(a ≤ c ∧ c < a + (bs.length + 1)) := by omega
        rw [if_neg h2, if_neg h1, if_neg h3]

/-- A store leaves every byte outside it alone. -/
theorem read_writeBytes_outside (m : Memory) (bs : List Byte) {a c : Nat}
    (hc : c < a ∨ a + bs.length ≤ c) : read font (writeBytes font m a bs) c = read font m c := by
  rw [read_writeBytes, if_neg (by omega)]

/-- Two canonical memories that read alike at every address are the same list. -/
theorem wfAbove_ext {m n : Memory} {low : Nat} (hm : wfAbove font low m = true) (hn : wfAbove font low n = true)
    (h : ∀ a, read font m a = read font n a) : m = n := by
  induction m generalizing n low with
  | nil =>
    cases n with
    | nil => rfl
    | cons cell n =>
      obtain ⟨d, x⟩ := cell
      simp only [wfAbove, Bool.and_eq_true, decide_eq_true_eq] at hn
      have := h d
      simp only [read, if_true] at this
      exact absurd this.symm hn.1.2
  | cons cell m ih =>
    obtain ⟨d, x⟩ := cell
    cases n with
    | nil =>
      simp only [wfAbove, Bool.and_eq_true, decide_eq_true_eq] at hm
      have := h d
      simp only [read, if_true] at this
      exact absurd this hm.1.2
    | cons cell' n =>
      obtain ⟨e, y⟩ := cell'
      simp only [wfAbove, Bool.and_eq_true, decide_eq_true_eq] at hm hn
      have hde : d = e := by
        rcases Nat.lt_trichotomy d e with hlt | heq | hgt
        · have := h d
          simp only [read, if_true, Nat.ne_of_lt hlt, if_false,
            read_of_lt_wfAbove hn.2 (Nat.lt_succ_of_lt hlt)] at this
          exact absurd this hm.1.2
        · exact heq
        · have := h e
          simp only [read, if_true, Nat.ne_of_lt hgt, if_false,
            read_of_lt_wfAbove hm.2 (Nat.lt_succ_of_lt hgt)] at this
          exact absurd this.symm hn.1.2
      subst hde
      have hxy : x = y := by simpa [read] using h d
      subst hxy
      have htail : ∀ a, read font m a = read font n a := by
        intro a
        by_cases ha : a = d
        · subst ha
          rw [read_of_lt_wfAbove hm.2 (Nat.lt_succ_self _), read_of_lt_wfAbove hn.2 (Nat.lt_succ_self _)]
        · simpa [read, ha] using h a
      rw [ih hm.2 hn.2 htail]

/-- Memory is what reads say it is. -/
theorem ext_of_wf {m n : Memory} (hm : wf font m = true) (hn : wf font n = true)
    (h : ∀ a, read font m a = read font n a) : m = n := wfAbove_ext hm hn h

end Sys2Proof.Machine.Memory
end

