-- ==== Sys2Proof/Laws/State.lean ====
section
/-! SUPPORT. One lemma per field per update of State, so that no later proof unfolds a record update. -/

namespace Sys2Proof.Machine.State

variable (s : State)

/-! ### setV -/

@[simp] theorem setV_mem (x : RegNum) (b : Byte) : (s.setV x b).mem = s.mem := rfl
@[simp] theorem setV_v (x : RegNum) (b : Byte) : (s.setV x b).v = s.v.set x b := rfl
@[simp] theorem setV_i (x : RegNum) (b : Byte) : (s.setV x b).i = s.i := rfl
@[simp] theorem setV_pc (x : RegNum) (b : Byte) : (s.setV x b).pc = s.pc := rfl
@[simp] theorem setV_stack (x : RegNum) (b : Byte) : (s.setV x b).stack = s.stack := rfl
@[simp] theorem setV_sp (x : RegNum) (b : Byte) : (s.setV x b).sp = s.sp := rfl
@[simp] theorem setV_dt (x : RegNum) (b : Byte) : (s.setV x b).dt = s.dt := rfl
@[simp] theorem setV_st (x : RegNum) (b : Byte) : (s.setV x b).st = s.st := rfl
@[simp] theorem setV_fb (x : RegNum) (b : Byte) : (s.setV x b).fb = s.fb := rfl
@[simp] theorem setV_k (x : RegNum) (b : Byte) : (s.setV x b).k = s.k := rfl
@[simp] theorem setV_needsRedraw (x : RegNum) (b : Byte) : (s.setV x b).needsRedraw = s.needsRedraw := rfl
@[simp] theorem setV_blockedOnKey (x : RegNum) (b : Byte) : (s.setV x b).blockedOnKey = s.blockedOnKey := rfl
@[simp] theorem setV_rndInput (x : RegNum) (b : Byte) : (s.setV x b).rndInput = s.rndInput := rfl
@[simp] theorem setV_draws (x : RegNum) (b : Byte) : (s.setV x b).draws = s.draws := rfl
@[simp] theorem setV_font (x : RegNum) (b : Byte) : (s.setV x b).font = s.font := rfl
@[simp] theorem setV_readByte (x : RegNum) (b : Byte) (a' : Nat) : (s.setV x b).readByte a' = s.readByte a' := rfl

/-! ### setVUpTo -/

@[simp] theorem setVUpTo_mem (x : RegNum) (f : Nat → Byte) : (s.setVUpTo x f).mem = s.mem := rfl
@[simp] theorem setVUpTo_v (x : RegNum) (f : Nat → Byte) : (s.setVUpTo x f).v = Vector.ofFn fun j => if j ≤ x then f j else s.v[j] := rfl
@[simp] theorem setVUpTo_i (x : RegNum) (f : Nat → Byte) : (s.setVUpTo x f).i = s.i := rfl
@[simp] theorem setVUpTo_pc (x : RegNum) (f : Nat → Byte) : (s.setVUpTo x f).pc = s.pc := rfl
@[simp] theorem setVUpTo_stack (x : RegNum) (f : Nat → Byte) : (s.setVUpTo x f).stack = s.stack := rfl
@[simp] theorem setVUpTo_sp (x : RegNum) (f : Nat → Byte) : (s.setVUpTo x f).sp = s.sp := rfl
@[simp] theorem setVUpTo_dt (x : RegNum) (f : Nat → Byte) : (s.setVUpTo x f).dt = s.dt := rfl
@[simp] theorem setVUpTo_st (x : RegNum) (f : Nat → Byte) : (s.setVUpTo x f).st = s.st := rfl
@[simp] theorem setVUpTo_fb (x : RegNum) (f : Nat → Byte) : (s.setVUpTo x f).fb = s.fb := rfl
@[simp] theorem setVUpTo_k (x : RegNum) (f : Nat → Byte) : (s.setVUpTo x f).k = s.k := rfl
@[simp] theorem setVUpTo_needsRedraw (x : RegNum) (f : Nat → Byte) : (s.setVUpTo x f).needsRedraw = s.needsRedraw := rfl
@[simp] theorem setVUpTo_blockedOnKey (x : RegNum) (f : Nat → Byte) : (s.setVUpTo x f).blockedOnKey = s.blockedOnKey := rfl
@[simp] theorem setVUpTo_rndInput (x : RegNum) (f : Nat → Byte) : (s.setVUpTo x f).rndInput = s.rndInput := rfl
@[simp] theorem setVUpTo_draws (x : RegNum) (f : Nat → Byte) : (s.setVUpTo x f).draws = s.draws := rfl
@[simp] theorem setVUpTo_font (x : RegNum) (f : Nat → Byte) : (s.setVUpTo x f).font = s.font := rfl
@[simp] theorem setVUpTo_readByte (x : RegNum) (f : Nat → Byte) (a' : Nat) : (s.setVUpTo x f).readByte a' = s.readByte a' := rfl

/-! ### setI -/

@[simp] theorem setI_mem (w : Word) : (s.setI w).mem = s.mem := rfl
@[simp] theorem setI_v (w : Word) : (s.setI w).v = s.v := rfl
@[simp] theorem setI_i (w : Word) : (s.setI w).i = w := rfl
@[simp] theorem setI_pc (w : Word) : (s.setI w).pc = s.pc := rfl
@[simp] theorem setI_stack (w : Word) : (s.setI w).stack = s.stack := rfl
@[simp] theorem setI_sp (w : Word) : (s.setI w).sp = s.sp := rfl
@[simp] theorem setI_dt (w : Word) : (s.setI w).dt = s.dt := rfl
@[simp] theorem setI_st (w : Word) : (s.setI w).st = s.st := rfl
@[simp] theorem setI_fb (w : Word) : (s.setI w).fb = s.fb := rfl
@[simp] theorem setI_k (w : Word) : (s.setI w).k = s.k := rfl
@[simp] theorem setI_needsRedraw (w : Word) : (s.setI w).needsRedraw = s.needsRedraw := rfl
@[simp] theorem setI_blockedOnKey (w : Word) : (s.setI w).blockedOnKey = s.blockedOnKey := rfl
@[simp] theorem setI_rndInput (w : Word) : (s.setI w).rndInput = s.rndInput := rfl
@[simp] theorem setI_draws (w : Word) : (s.setI w).draws = s.draws := rfl
@[simp] theorem setI_font (w : Word) : (s.setI w).font = s.font := rfl
@[simp] theorem setI_getV (w : Word) (r : RegNum) : (s.setI w).getV r = s.getV r := rfl
@[simp] theorem setI_readByte (w : Word) (a' : Nat) : (s.setI w).readByte a' = s.readByte a' := rfl

/-! ### setDt -/

@[simp] theorem setDt_mem (b : Byte) : (s.setDt b).mem = s.mem := rfl
@[simp] theorem setDt_v (b : Byte) : (s.setDt b).v = s.v := rfl
@[simp] theorem setDt_i (b : Byte) : (s.setDt b).i = s.i := rfl
@[simp] theorem setDt_pc (b : Byte) : (s.setDt b).pc = s.pc := rfl
@[simp] theorem setDt_stack (b : Byte) : (s.setDt b).stack = s.stack := rfl
@[simp] theorem setDt_sp (b : Byte) : (s.setDt b).sp = s.sp := rfl
@[simp] theorem setDt_dt (b : Byte) : (s.setDt b).dt = b := rfl
@[simp] theorem setDt_st (b : Byte) : (s.setDt b).st = s.st := rfl
@[simp] theorem setDt_fb (b : Byte) : (s.setDt b).fb = s.fb := rfl
@[simp] theorem setDt_k (b : Byte) : (s.setDt b).k = s.k := rfl
@[simp] theorem setDt_needsRedraw (b : Byte) : (s.setDt b).needsRedraw = s.needsRedraw := rfl
@[simp] theorem setDt_blockedOnKey (b : Byte) : (s.setDt b).blockedOnKey = s.blockedOnKey := rfl
@[simp] theorem setDt_rndInput (b : Byte) : (s.setDt b).rndInput = s.rndInput := rfl
@[simp] theorem setDt_draws (b : Byte) : (s.setDt b).draws = s.draws := rfl
@[simp] theorem setDt_font (b : Byte) : (s.setDt b).font = s.font := rfl
@[simp] theorem setDt_getV (b : Byte) (r : RegNum) : (s.setDt b).getV r = s.getV r := rfl
@[simp] theorem setDt_readByte (b : Byte) (a' : Nat) : (s.setDt b).readByte a' = s.readByte a' := rfl

/-! ### setSt -/

@[simp] theorem setSt_mem (b : Byte) : (s.setSt b).mem = s.mem := rfl
@[simp] theorem setSt_v (b : Byte) : (s.setSt b).v = s.v := rfl
@[simp] theorem setSt_i (b : Byte) : (s.setSt b).i = s.i := rfl
@[simp] theorem setSt_pc (b : Byte) : (s.setSt b).pc = s.pc := rfl
@[simp] theorem setSt_stack (b : Byte) : (s.setSt b).stack = s.stack := rfl
@[simp] theorem setSt_sp (b : Byte) : (s.setSt b).sp = s.sp := rfl
@[simp] theorem setSt_dt (b : Byte) : (s.setSt b).dt = s.dt := rfl
@[simp] theorem setSt_st (b : Byte) : (s.setSt b).st = b := rfl
@[simp] theorem setSt_fb (b : Byte) : (s.setSt b).fb = s.fb := rfl
@[simp] theorem setSt_k (b : Byte) : (s.setSt b).k = s.k := rfl
@[simp] theorem setSt_needsRedraw (b : Byte) : (s.setSt b).needsRedraw = s.needsRedraw := rfl
@[simp] theorem setSt_blockedOnKey (b : Byte) : (s.setSt b).blockedOnKey = s.blockedOnKey := rfl
@[simp] theorem setSt_rndInput (b : Byte) : (s.setSt b).rndInput = s.rndInput := rfl
@[simp] theorem setSt_draws (b : Byte) : (s.setSt b).draws = s.draws := rfl
@[simp] theorem setSt_font (b : Byte) : (s.setSt b).font = s.font := rfl
@[simp] theorem setSt_getV (b : Byte) (r : RegNum) : (s.setSt b).getV r = s.getV r := rfl
@[simp] theorem setSt_readByte (b : Byte) (a' : Nat) : (s.setSt b).readByte a' = s.readByte a' := rfl

/-! ### setBlocked -/

@[simp] theorem setBlocked_mem (c : Bool) : (s.setBlocked c).mem = s.mem := rfl
@[simp] theorem setBlocked_v (c : Bool) : (s.setBlocked c).v = s.v := rfl
@[simp] theorem setBlocked_i (c : Bool) : (s.setBlocked c).i = s.i := rfl
@[simp] theorem setBlocked_pc (c : Bool) : (s.setBlocked c).pc = s.pc := rfl
@[simp] theorem setBlocked_stack (c : Bool) : (s.setBlocked c).stack = s.stack := rfl
@[simp] theorem setBlocked_sp (c : Bool) : (s.setBlocked c).sp = s.sp := rfl
@[simp] theorem setBlocked_dt (c : Bool) : (s.setBlocked c).dt = s.dt := rfl
@[simp] theorem setBlocked_st (c : Bool) : (s.setBlocked c).st = s.st := rfl
@[simp] theorem setBlocked_fb (c : Bool) : (s.setBlocked c).fb = s.fb := rfl
@[simp] theorem setBlocked_k (c : Bool) : (s.setBlocked c).k = s.k := rfl
@[simp] theorem setBlocked_needsRedraw (c : Bool) : (s.setBlocked c).needsRedraw = s.needsRedraw := rfl
@[simp] theorem setBlocked_blockedOnKey (c : Bool) : (s.setBlocked c).blockedOnKey = c := rfl
@[simp] theorem setBlocked_rndInput (c : Bool) : (s.setBlocked c).rndInput = s.rndInput := rfl
@[simp] theorem setBlocked_draws (c : Bool) : (s.setBlocked c).draws = s.draws := rfl
@[simp] theorem setBlocked_font (c : Bool) : (s.setBlocked c).font = s.font := rfl
@[simp] theorem setBlocked_getV (c : Bool) (r : RegNum) : (s.setBlocked c).getV r = s.getV r := rfl
@[simp] theorem setBlocked_readByte (c : Bool) (a' : Nat) : (s.setBlocked c).readByte a' = s.readByte a' := rfl

/-! ### setPc -/

@[simp] theorem setPc_mem (w : Word) : (s.setPc w).mem = s.mem := rfl
@[simp] theorem setPc_v (w : Word) : (s.setPc w).v = s.v := rfl
@[simp] theorem setPc_i (w : Word) : (s.setPc w).i = s.i := rfl
@[simp] theorem setPc_pc (w : Word) : (s.setPc w).pc = w := rfl
@[simp] theorem setPc_stack (w : Word) : (s.setPc w).stack = s.stack := rfl
@[simp] theorem setPc_sp (w : Word) : (s.setPc w).sp = s.sp := rfl
@[simp] theorem setPc_dt (w : Word) : (s.setPc w).dt = s.dt := rfl
@[simp] theorem setPc_st (w : Word) : (s.setPc w).st = s.st := rfl
@[simp] theorem setPc_fb (w : Word) : (s.setPc w).fb = s.fb := rfl
@[simp] theorem setPc_k (w : Word) : (s.setPc w).k = s.k := rfl
@[simp] theorem setPc_needsRedraw (w : Word) : (s.setPc w).needsRedraw = s.needsRedraw := rfl
@[simp] theorem setPc_blockedOnKey (w : Word) : (s.setPc w).blockedOnKey = s.blockedOnKey := rfl
@[simp] theorem setPc_rndInput (w : Word) : (s.setPc w).rndInput = s.rndInput := rfl
@[simp] theorem setPc_draws (w : Word) : (s.setPc w).draws = s.draws := rfl
@[simp] theorem setPc_font (w : Word) : (s.setPc w).font = s.font := rfl
@[simp] theorem setPc_getV (w : Word) (r : RegNum) : (s.setPc w).getV r = s.getV r := rfl
@[simp] theorem setPc_readByte (w : Word) (a' : Nat) : (s.setPc w).readByte a' = s.readByte a' := rfl

/-! ### advance -/

@[simp] theorem advance_mem : (s.advance).mem = s.mem := rfl
@[simp] theorem advance_v : (s.advance).v = s.v := rfl
@[simp] theorem advance_i : (s.advance).i = s.i := rfl
@[simp] theorem advance_pc : (s.advance).pc = s.pc + 2 := rfl
@[simp] theorem advance_stack : (s.advance).stack = s.stack := rfl
@[simp] theorem advance_sp : (s.advance).sp = s.sp := rfl
@[simp] theorem advance_dt : (s.advance).dt = s.dt := rfl
@[simp] theorem advance_st : (s.advance).st = s.st := rfl
@[simp] theorem advance_fb : (s.advance).fb = s.fb := rfl
@[simp] theorem advance_k : (s.advance).k = s.k := rfl
@[simp] theorem advance_needsRedraw : (s.advance).needsRedraw = s.needsRedraw := rfl
@[simp] theorem advance_blockedOnKey : (s.advance).blockedOnKey = s.blockedOnKey := rfl
@[simp] theorem advance_rndInput : (s.advance).rndInput = s.rndInput := rfl
@[simp] theorem advance_draws : (s.advance).draws = s.draws := rfl
@[simp] theorem advance_font : (s.advance).font = s.font := rfl
@[simp] theorem advance_getV (r : RegNum) : (s.advance).getV r = s.getV r := rfl
@[simp] theorem advance_readByte (a' : Nat) : (s.advance).readByte a' = s.readByte a' := rfl

/-! ### skipIf -/

@[simp] theorem skipIf_mem (c : Bool) : (s.skipIf c).mem = s.mem := rfl
@[simp] theorem skipIf_v (c : Bool) : (s.skipIf c).v = s.v := rfl
@[simp] theorem skipIf_i (c : Bool) : (s.skipIf c).i = s.i := rfl
@[simp] theorem skipIf_pc (c : Bool) : (s.skipIf c).pc = if c then s.pc + 4 else s.pc + 2 := rfl
@[simp] theorem skipIf_stack (c : Bool) : (s.skipIf c).stack = s.stack := rfl
@[simp] theorem skipIf_sp (c : Bool) : (s.skipIf c).sp = s.sp := rfl
@[simp] theorem skipIf_dt (c : Bool) : (s.skipIf c).dt = s.dt := rfl
@[simp] theorem skipIf_st (c : Bool) : (s.skipIf c).st = s.st := rfl
@[simp] theorem skipIf_fb (c : Bool) : (s.skipIf c).fb = s.fb := rfl
@[simp] theorem skipIf_k (c : Bool) : (s.skipIf c).k = s.k := rfl
@[simp] theorem skipIf_needsRedraw (c : Bool) : (s.skipIf c).needsRedraw = s.needsRedraw := rfl
@[simp] theorem skipIf_blockedOnKey (c : Bool) : (s.skipIf c).blockedOnKey = s.blockedOnKey := rfl
@[simp] theorem skipIf_rndInput (c : Bool) : (s.skipIf c).rndInput = s.rndInput := rfl
@[simp] theorem skipIf_draws (c : Bool) : (s.skipIf c).draws = s.draws := rfl
@[simp] theorem skipIf_font (c : Bool) : (s.skipIf c).font = s.font := rfl
@[simp] theorem skipIf_getV (c : Bool) (r : RegNum) : (s.skipIf c).getV r = s.getV r := rfl
@[simp] theorem skipIf_readByte (c : Bool) (a' : Nat) : (s.skipIf c).readByte a' = s.readByte a' := rfl

/-! ### storeBytes -/

@[simp] theorem storeBytes_mem (a : Nat) (bs : List Byte) : (s.storeBytes a bs).mem = Memory.writeBytes s.font s.mem a bs := rfl
@[simp] theorem storeBytes_v (a : Nat) (bs : List Byte) : (s.storeBytes a bs).v = s.v := rfl
@[simp] theorem storeBytes_i (a : Nat) (bs : List Byte) : (s.storeBytes a bs).i = s.i := rfl
@[simp] theorem storeBytes_pc (a : Nat) (bs : List Byte) : (s.storeBytes a bs).pc = s.pc := rfl
@[simp] theorem storeBytes_stack (a : Nat) (bs : List Byte) : (s.storeBytes a bs).stack = s.stack := rfl
@[simp] theorem storeBytes_sp (a : Nat) (bs : List Byte) : (s.storeBytes a bs).sp = s.sp := rfl
@[simp] theorem storeBytes_dt (a : Nat) (bs : List Byte) : (s.storeBytes a bs).dt = s.dt := rfl
@[simp] theorem storeBytes_st (a : Nat) (bs : List Byte) : (s.storeBytes a bs).st = s.st := rfl
@[simp] theorem storeBytes_fb (a : Nat) (bs : List Byte) : (s.storeBytes a bs).fb = s.fb := rfl
@[simp] theorem storeBytes_k (a : Nat) (bs : List Byte) : (s.storeBytes a bs).k = s.k := rfl
@[simp] theorem storeBytes_needsRedraw (a : Nat) (bs : List Byte) : (s.storeBytes a bs).needsRedraw = s.needsRedraw := rfl
@[simp] theorem storeBytes_blockedOnKey (a : Nat) (bs : List Byte) : (s.storeBytes a bs).blockedOnKey = s.blockedOnKey := rfl
@[simp] theorem storeBytes_rndInput (a : Nat) (bs : List Byte) : (s.storeBytes a bs).rndInput = s.rndInput := rfl
@[simp] theorem storeBytes_draws (a : Nat) (bs : List Byte) : (s.storeBytes a bs).draws = s.draws := rfl
@[simp] theorem storeBytes_font (a : Nat) (bs : List Byte) : (s.storeBytes a bs).font = s.font := rfl
@[simp] theorem storeBytes_getV (a : Nat) (bs : List Byte) (r : RegNum) : (s.storeBytes a bs).getV r = s.getV r := rfl

/-! ### setFb -/

@[simp] theorem setFb_mem (f : Framebuffer) : (s.setFb f).mem = s.mem := rfl
@[simp] theorem setFb_v (f : Framebuffer) : (s.setFb f).v = s.v := rfl
@[simp] theorem setFb_i (f : Framebuffer) : (s.setFb f).i = s.i := rfl
@[simp] theorem setFb_pc (f : Framebuffer) : (s.setFb f).pc = s.pc := rfl
@[simp] theorem setFb_stack (f : Framebuffer) : (s.setFb f).stack = s.stack := rfl
@[simp] theorem setFb_sp (f : Framebuffer) : (s.setFb f).sp = s.sp := rfl
@[simp] theorem setFb_dt (f : Framebuffer) : (s.setFb f).dt = s.dt := rfl
@[simp] theorem setFb_st (f : Framebuffer) : (s.setFb f).st = s.st := rfl
@[simp] theorem setFb_fb (f : Framebuffer) : (s.setFb f).fb = f := rfl
@[simp] theorem setFb_k (f : Framebuffer) : (s.setFb f).k = s.k := rfl
@[simp] theorem setFb_needsRedraw (f : Framebuffer) : (s.setFb f).needsRedraw = true := rfl
@[simp] theorem setFb_blockedOnKey (f : Framebuffer) : (s.setFb f).blockedOnKey = s.blockedOnKey := rfl
@[simp] theorem setFb_rndInput (f : Framebuffer) : (s.setFb f).rndInput = s.rndInput := rfl
@[simp] theorem setFb_draws (f : Framebuffer) : (s.setFb f).draws = s.draws := rfl
@[simp] theorem setFb_font (f : Framebuffer) : (s.setFb f).font = s.font := rfl
@[simp] theorem setFb_getV (f : Framebuffer) (r : RegNum) : (s.setFb f).getV r = s.getV r := rfl
@[simp] theorem setFb_readByte (f : Framebuffer) (a' : Nat) : (s.setFb f).readByte a' = s.readByte a' := rfl

/-! ### timerPhase -/

@[simp] theorem timerPhase_mem : (s.timerPhase).mem = s.mem := rfl
@[simp] theorem timerPhase_v : (s.timerPhase).v = s.v := rfl
@[simp] theorem timerPhase_i : (s.timerPhase).i = s.i := rfl
@[simp] theorem timerPhase_pc : (s.timerPhase).pc = s.pc := rfl
@[simp] theorem timerPhase_stack : (s.timerPhase).stack = s.stack := rfl
@[simp] theorem timerPhase_sp : (s.timerPhase).sp = s.sp := rfl
@[simp] theorem timerPhase_dt : (s.timerPhase).dt = countDown s.dt := rfl
@[simp] theorem timerPhase_st : (s.timerPhase).st = countDown s.st := rfl
@[simp] theorem timerPhase_fb : (s.timerPhase).fb = s.fb := rfl
@[simp] theorem timerPhase_k : (s.timerPhase).k = s.k := rfl
@[simp] theorem timerPhase_needsRedraw : (s.timerPhase).needsRedraw = s.needsRedraw := rfl
@[simp] theorem timerPhase_blockedOnKey : (s.timerPhase).blockedOnKey = s.blockedOnKey := rfl
@[simp] theorem timerPhase_rndInput : (s.timerPhase).rndInput = s.rndInput := rfl
@[simp] theorem timerPhase_draws : (s.timerPhase).draws = s.draws := rfl
@[simp] theorem timerPhase_font : (s.timerPhase).font = s.font := rfl
@[simp] theorem timerPhase_getV (r : RegNum) : (s.timerPhase).getV r = s.getV r := rfl
@[simp] theorem timerPhase_readByte (a' : Nat) : (s.timerPhase).readByte a' = s.readByte a' := rfl

/-! ### dropRnd -/

@[simp] theorem dropRnd_mem : (s.dropRnd).mem = s.mem := rfl
@[simp] theorem dropRnd_v : (s.dropRnd).v = s.v := rfl
@[simp] theorem dropRnd_i : (s.dropRnd).i = s.i := rfl
@[simp] theorem dropRnd_pc : (s.dropRnd).pc = s.pc := rfl
@[simp] theorem dropRnd_stack : (s.dropRnd).stack = s.stack := rfl
@[simp] theorem dropRnd_sp : (s.dropRnd).sp = s.sp := rfl
@[simp] theorem dropRnd_dt : (s.dropRnd).dt = s.dt := rfl
@[simp] theorem dropRnd_st : (s.dropRnd).st = s.st := rfl
@[simp] theorem dropRnd_fb : (s.dropRnd).fb = s.fb := rfl
@[simp] theorem dropRnd_k : (s.dropRnd).k = s.k := rfl
@[simp] theorem dropRnd_needsRedraw : (s.dropRnd).needsRedraw = s.needsRedraw := rfl
@[simp] theorem dropRnd_blockedOnKey : (s.dropRnd).blockedOnKey = s.blockedOnKey := rfl
@[simp] theorem dropRnd_rndInput : (s.dropRnd).rndInput = none := rfl
@[simp] theorem dropRnd_draws : (s.dropRnd).draws = s.draws + 1 := rfl
@[simp] theorem dropRnd_font : (s.dropRnd).font = s.font := rfl
@[simp] theorem dropRnd_getV (r : RegNum) : (s.dropRnd).getV r = s.getV r := rfl
@[simp] theorem dropRnd_readByte (a' : Nat) : (s.dropRnd).readByte a' = s.readByte a' := rfl

/-! ### endStep -/

@[simp] theorem endStep_mem : (s.endStep).mem = s.mem := rfl
@[simp] theorem endStep_v : (s.endStep).v = s.v := rfl
@[simp] theorem endStep_i : (s.endStep).i = s.i := rfl
@[simp] theorem endStep_pc : (s.endStep).pc = s.pc := rfl
@[simp] theorem endStep_stack : (s.endStep).stack = s.stack := rfl
@[simp] theorem endStep_sp : (s.endStep).sp = s.sp := rfl
@[simp] theorem endStep_dt : (s.endStep).dt = countDown s.dt := rfl
@[simp] theorem endStep_st : (s.endStep).st = countDown s.st := rfl
@[simp] theorem endStep_fb : (s.endStep).fb = s.fb := rfl
@[simp] theorem endStep_k : (s.endStep).k = s.k := rfl
@[simp] theorem endStep_needsRedraw : (s.endStep).needsRedraw = s.needsRedraw := rfl
@[simp] theorem endStep_blockedOnKey : (s.endStep).blockedOnKey = s.blockedOnKey := rfl
@[simp] theorem endStep_rndInput : (s.endStep).rndInput = none := rfl
@[simp] theorem endStep_draws : (s.endStep).draws = s.draws + 1 := rfl
@[simp] theorem endStep_font : (s.endStep).font = s.font := rfl
@[simp] theorem endStep_getV (r : RegNum) : (s.endStep).getV r = s.getV r := rfl
@[simp] theorem endStep_readByte (a' : Nat) : (s.endStep).readByte a' = s.readByte a' := rfl

/-! ### withRnd -/

@[simp] theorem withRnd_mem (b : Byte) : (s.withRnd b).mem = s.mem := rfl
@[simp] theorem withRnd_v (b : Byte) : (s.withRnd b).v = s.v := rfl
@[simp] theorem withRnd_i (b : Byte) : (s.withRnd b).i = s.i := rfl
@[simp] theorem withRnd_pc (b : Byte) : (s.withRnd b).pc = s.pc := rfl
@[simp] theorem withRnd_stack (b : Byte) : (s.withRnd b).stack = s.stack := rfl
@[simp] theorem withRnd_sp (b : Byte) : (s.withRnd b).sp = s.sp := rfl
@[simp] theorem withRnd_dt (b : Byte) : (s.withRnd b).dt = s.dt := rfl
@[simp] theorem withRnd_st (b : Byte) : (s.withRnd b).st = s.st := rfl
@[simp] theorem withRnd_fb (b : Byte) : (s.withRnd b).fb = s.fb := rfl
@[simp] theorem withRnd_k (b : Byte) : (s.withRnd b).k = s.k := rfl
@[simp] theorem withRnd_needsRedraw (b : Byte) : (s.withRnd b).needsRedraw = s.needsRedraw := rfl
@[simp] theorem withRnd_blockedOnKey (b : Byte) : (s.withRnd b).blockedOnKey = s.blockedOnKey := rfl
@[simp] theorem withRnd_rndInput (b : Byte) : (s.withRnd b).rndInput = some b := rfl
@[simp] theorem withRnd_draws (b : Byte) : (s.withRnd b).draws = s.draws := rfl
@[simp] theorem withRnd_font (b : Byte) : (s.withRnd b).font = s.font := rfl
@[simp] theorem withRnd_getV (b : Byte) (r : RegNum) : (s.withRnd b).getV r = s.getV r := rfl
@[simp] theorem withRnd_readByte (b : Byte) (a' : Nat) : (s.withRnd b).readByte a' = s.readByte a' := rfl

/-! ### setKeys -/

@[simp] theorem setKeys_mem (w : BitVec 16) : (s.setKeys w).mem = s.mem := rfl
@[simp] theorem setKeys_v (w : BitVec 16) : (s.setKeys w).v = s.v := rfl
@[simp] theorem setKeys_i (w : BitVec 16) : (s.setKeys w).i = s.i := rfl
@[simp] theorem setKeys_pc (w : BitVec 16) : (s.setKeys w).pc = s.pc := rfl
@[simp] theorem setKeys_stack (w : BitVec 16) : (s.setKeys w).stack = s.stack := rfl
@[simp] theorem setKeys_sp (w : BitVec 16) : (s.setKeys w).sp = s.sp := rfl
@[simp] theorem setKeys_dt (w : BitVec 16) : (s.setKeys w).dt = s.dt := rfl
@[simp] theorem setKeys_st (w : BitVec 16) : (s.setKeys w).st = s.st := rfl
@[simp] theorem setKeys_fb (w : BitVec 16) : (s.setKeys w).fb = s.fb := rfl
@[simp] theorem setKeys_k (w : BitVec 16) : (s.setKeys w).k = w := rfl
@[simp] theorem setKeys_needsRedraw (w : BitVec 16) : (s.setKeys w).needsRedraw = s.needsRedraw := rfl
@[simp] theorem setKeys_blockedOnKey (w : BitVec 16) : (s.setKeys w).blockedOnKey = s.blockedOnKey := rfl
@[simp] theorem setKeys_rndInput (w : BitVec 16) : (s.setKeys w).rndInput = s.rndInput := rfl
@[simp] theorem setKeys_draws (w : BitVec 16) : (s.setKeys w).draws = s.draws := rfl
@[simp] theorem setKeys_font (w : BitVec 16) : (s.setKeys w).font = s.font := rfl
@[simp] theorem setKeys_getV (w : BitVec 16) (r : RegNum) : (s.setKeys w).getV r = s.getV r := rfl
@[simp] theorem setKeys_readByte (w : BitVec 16) (a' : Nat) : (s.setKeys w).readByte a' = s.readByte a' := rfl

/-! ### clearRedraw -/

@[simp] theorem clearRedraw_mem : (s.clearRedraw).mem = s.mem := rfl
@[simp] theorem clearRedraw_v : (s.clearRedraw).v = s.v := rfl
@[simp] theorem clearRedraw_i : (s.clearRedraw).i = s.i := rfl
@[simp] theorem clearRedraw_pc : (s.clearRedraw).pc = s.pc := rfl
@[simp] theorem clearRedraw_stack : (s.clearRedraw).stack = s.stack := rfl
@[simp] theorem clearRedraw_sp : (s.clearRedraw).sp = s.sp := rfl
@[simp] theorem clearRedraw_dt : (s.clearRedraw).dt = s.dt := rfl
@[simp] theorem clearRedraw_st : (s.clearRedraw).st = s.st := rfl
@[simp] theorem clearRedraw_fb : (s.clearRedraw).fb = s.fb := rfl
@[simp] theorem clearRedraw_k : (s.clearRedraw).k = s.k := rfl
@[simp] theorem clearRedraw_needsRedraw : (s.clearRedraw).needsRedraw = false := rfl
@[simp] theorem clearRedraw_blockedOnKey : (s.clearRedraw).blockedOnKey = s.blockedOnKey := rfl
@[simp] theorem clearRedraw_rndInput : (s.clearRedraw).rndInput = s.rndInput := rfl
@[simp] theorem clearRedraw_draws : (s.clearRedraw).draws = s.draws := rfl
@[simp] theorem clearRedraw_font : (s.clearRedraw).font = s.font := rfl
@[simp] theorem clearRedraw_getV (r : RegNum) : (s.clearRedraw).getV r = s.getV r := rfl
@[simp] theorem clearRedraw_readByte (a' : Nat) : (s.clearRedraw).readByte a' = s.readByte a' := rfl

/-! ### resetWith -/

@[simp] theorem resetWith_mem (font : Font) : (resetWith font).mem = [] := rfl
@[simp] theorem resetWith_v (font : Font) : (resetWith font).v = Vector.replicate 16 0 := rfl
@[simp] theorem resetWith_i (font : Font) : (resetWith font).i = 0 := rfl
@[simp] theorem resetWith_pc (font : Font) : (resetWith font).pc = 0x200 := rfl
@[simp] theorem resetWith_stack (font : Font) : (resetWith font).stack = Vector.replicate 16 0 := rfl
@[simp] theorem resetWith_sp (font : Font) : (resetWith font).sp = 0 := rfl
@[simp] theorem resetWith_dt (font : Font) : (resetWith font).dt = 0 := rfl
@[simp] theorem resetWith_st (font : Font) : (resetWith font).st = 0 := rfl
@[simp] theorem resetWith_fb (font : Font) : (resetWith font).fb = Vector.replicate 32 0 := rfl
@[simp] theorem resetWith_k (font : Font) : (resetWith font).k = 0 := rfl
@[simp] theorem resetWith_needsRedraw (font : Font) : (resetWith font).needsRedraw = true := rfl
@[simp] theorem resetWith_blockedOnKey (font : Font) : (resetWith font).blockedOnKey = false := rfl
@[simp] theorem resetWith_rndInput (font : Font) : (resetWith font).rndInput = none := rfl
@[simp] theorem resetWith_draws (font : Font) : (resetWith font).draws = 0 := rfl
@[simp] theorem resetWith_font (font : Font) : (resetWith font).font = font := rfl
@[simp] theorem resetWith_readByte (font : Font) (a : Nat) : (resetWith font).readByte a = Memory.background font a := rfl

end Sys2Proof.Machine.State
end

