-- ==== Sys2Proof/Laws/Ops.lean ====
section
/-! SUPPORT. One lemma per shared operation that says everything it can do; proofs cite these and do not
unfold the operations. -/

namespace Sys2Proof.Machine

/-! ## Outcomes -/

@[simp] theorem andThen_next (t : State) (f : State → Result) : andThen (.next t) f = f t := rfl
@[simp] theorem andThen_fault (kind : Fault) (f : State → Result) :
    andThen (.fault kind) f = .fault kind := rfl
@[simp] theorem andThen_refused (r : Refusal) (f : State → Result) :
    andThen (.refused r) f = .refused r := rfl

theorem andThen_eq_next {o : Result} {f : State → Result} {t : State} :
    andThen o f = .next t ↔ ∃ u, o = .next u ∧ f u = .next t := by
  cases o <;> simp

theorem andThen_eq_fault {o : Result} {f : State → Result} {kind : Fault} :
    andThen o f = .fault kind ↔ o = .fault kind ∨ ∃ u, o = .next u ∧ f u = .fault kind := by
  cases o <;> simp

theorem andThen_eq_refused {o : Result} {f : State → Result} {r : Refusal} :
    andThen o f = .refused r ↔ o = .refused r ∨ ∃ u, o = .next u ∧ f u = .refused r := by
  cases o <;> simp

/-! ## Registers -/

theorem State.getV_setV (s : State) (x : RegNum) (b : Byte) (r : RegNum) :
    (s.setV x b).getV r = if r = x then b else s.getV r := by
  simp only [State.getV, State.setV, Fin.getElem_fin, Vector.getElem_set]
  by_cases h : r = x
  · subst h; simp
  · have hne : x.val ≠ r.val := fun h' => h (Fin.ext h'.symm)
    simp [h, hne]

@[simp] theorem State.getV_setV_same (s : State) (x : RegNum) (b : Byte) : (s.setV x b).getV x = b := by
  simp [State.getV_setV]

theorem State.getV_setV_ne (s : State) {x r : RegNum} (b : Byte) (h : r ≠ x) :
    (s.setV x b).getV r = s.getV r := by
  simp [State.getV_setV, h]

/-- The result wins at `V[15]`, the flag elsewhere (rule R70 b, c). -/
theorem State.getV_setFlagThenV (s : State) (flag : Byte) (x : RegNum) (b : Byte) (r : RegNum) :
    (s.setFlagThenV flag x b).getV r = if r = x then b else if r = VF then flag else s.getV r := by
  simp [State.setFlagThenV, State.getV_setV]

theorem State.getV_setVUpTo (s : State) (x : RegNum) (f : Nat → Byte) (r : RegNum) :
    (s.setVUpTo x f).getV r = if r ≤ x then f r else s.getV r := by
  simp [State.getV, State.setVUpTo]

theorem State.ext_v {s t : State} (h : ∀ r, t.getV r = s.getV r) : t.v = s.v := by
  apply Vector.ext
  intro j hj
  exact h ⟨j, hj⟩

/-! ## Memory -/

theorem inMemory_iff {base len : Nat} : inMemory base len = true ↔ len = 0 ∨ base + len ≤ 4096 := by
  simp [inMemory]

theorem checked_eq_next {base len : Nat} {go : Result} {t : State} :
    checked base len go = .next t ↔ (len = 0 ∨ base + len ≤ 4096) ∧ go = .next t := by
  rw [← inMemory_iff]; unfold checked raise; split <;> simp_all

theorem checked_of_fits {base len : Nat} (go : Result) (h : len = 0 ∨ base + len ≤ 4096) :
    checked base len go = go := by
  rw [checked, if_pos (inMemory_iff.2 h)]

theorem checked_of_not_fits {base len : Nat} (go : Result) (h : ¬(len = 0 ∨ base + len ≤ 4096)) :
    checked base len go = .fault .memoryOutOfRange := by
  rw [checked, if_neg (mt inMemory_iff.1 h), raise]

theorem State.readByte_storeBytes (s : State) (a : Nat) (bs : List Byte) (c : Nat) :
    (s.storeBytes a bs).readByte c =
      if a ≤ c ∧ c < a + bs.length then bs.getD (c - a) 0 else s.readByte c :=
  Memory.read_writeBytes s.mem bs a c

theorem State.readByte_storeBytes_outside (s : State) {a c : Nat} (bs : List Byte)
    (h : c < a ∨ a + bs.length ≤ c) : (s.storeBytes a bs).readByte c = s.readByte c :=
  Memory.read_writeBytes_outside s.mem bs h

@[simp] theorem length_decimalDigits (b : Byte) : (decimalDigits b).length = 3 := rfl

@[simp] theorem State.length_regsUpTo (s : State) (x : RegNum) : (s.regsUpTo x).length = x.val + 1 := by
  simp [State.regsUpTo]

theorem State.regsUpTo_getD (s : State) (x r : RegNum) (h : r ≤ x) :
    (s.regsUpTo x).getD r.val 0 = s.getV r := by
  have hr : r.val < x.val + 1 := Nat.lt_succ_of_le h
  simp [State.regsUpTo, State.getV, List.getD, hr]

/-! ## Call stack -/

theorem push_eq_next {s t : State} {w : Word} :
    push s w = .next t ↔ ∃ h : s.sp.val < 16,
      t = { s with stack := s.stack.set s.sp.val w, sp := ⟨s.sp.val + 1, by omega⟩ } := by
  unfold push raise; split <;> simp_all [eq_comm]

theorem push_full {s : State} (w : Word) (h : s.sp.val = 16) : push s w = .fault .stackOverflow := by
  rw [push, dif_neg (by omega), raise]

theorem popToPc_eq_next {s t : State} :
    popToPc s = .next t ↔ ∃ h : 0 < s.sp.val,
      t = { s with sp := ⟨s.sp.val - 1, by omega⟩, pc := s.stack[s.sp.val - 1]'(by omega) } := by
  unfold popToPc raise; split <;> simp_all [eq_comm]

theorem popToPc_empty {s : State} (h : s.sp.val = 0) : popToPc s = .fault .stackUnderflow := by
  rw [popToPc, dif_neg (by omega), raise]

/-! ## Framebuffer -/

theorem Framebuffer.pixel_setPixel (fb : Framebuffer) (x x' : Fin 64) (y y' : Fin 32) (b : Bool) :
    (fb.setPixel x y b).pixel x' y' = if x' = x ∧ y' = y then b else fb.pixel x' y' := by
  simp only [Framebuffer.pixel, Framebuffer.setPixel, Fin.getElem_fin, Vector.getElem_set]
  by_cases hy : y' = y
  · subst hy
    simp only [if_true, and_true]
    by_cases hx : x' = x
    · subst hx
      cases b <;> simp
    · have hne : x'.val ≠ x.val := fun h => hx (Fin.ext h)
      have hbit : (x'.val - x.val = 0) → x'.val < x.val := by omega
      rw [if_neg hx]
      cases b <;>
        simp <;> omega
  · have hne : ¬(y.val = y'.val) := fun h => hy (Fin.ext h.symm)
    simp [hy, hne]

@[simp] theorem Framebuffer.pixel_blank (x : Fin 64) (y : Fin 32) :
    Framebuffer.blank.pixel x y = false := by
  simp [Framebuffer.blank, Framebuffer.pixel]

/-- A listed pixel is inverted once, however often it is listed; the others stay. -/
theorem Framebuffer.pixel_toggleAll (old : Framebuffer) (ps : List (Fin 64 × Fin 32)) (x : Fin 64)
    (y : Fin 32) :
    (old.toggleAll ps).pixel x y = if (x, y) ∈ ps then !old.pixel x y else old.pixel x y := by
  have go : ∀ (ps : List (Fin 64 × Fin 32)) (fb : Framebuffer),
      (ps.foldl (fun fb p => fb.setPixel p.1 p.2 (!old.pixel p.1 p.2)) fb).pixel x y =
        if (x, y) ∈ ps then !old.pixel x y else fb.pixel x y := by
    intro ps
    induction ps with
    | nil => simp
    | cons p ps ih =>
      intro fb
      obtain ⟨px, py⟩ := p
      rw [List.foldl_cons, ih, Framebuffer.pixel_setPixel]
      by_cases h1 : (x, y) ∈ ps
      · simp [h1]
      · by_cases h2 : x = px ∧ y = py
        · obtain ⟨rfl, rfl⟩ := h2; simp [h1]
        · simp [h1, h2]
  exact go ps old

/-- Which pixels a sprite lights (rule R97). -/
theorem State.mem_spritePixels {s : State} {x0 y0 : Byte} {base n : Nat} {p : Fin 64 × Fin 32} :
    p ∈ s.spritePixels x0 y0 base n ↔
      ∃ row, row < n ∧ ∃ col, col < 8 ∧ spriteBit (s.readByte (base + row)) col = true ∧
        spritePixel x0 y0 row col = p := by
  simp [State.spritePixels, and_assoc]

/-! ## Keys -/

theorem lowestKey_eq_none {k : BitVec 16} :
    lowestKey k = none ↔ ∀ c, c < 16 → k.getLsbD c = false := by
  simp [lowestKey, List.find?_eq_none]

theorem lowestKey_eq_some {k : BitVec 16} {c : Nat} :
    lowestKey k = some c ↔ c < 16 ∧ k.getLsbD c = true ∧ ∀ d, d < c → k.getLsbD d = false := by
  unfold lowestKey
  rw [List.find?_range_eq_some]
  simp only [List.mem_range, Bool.not_eq_true']
  constructor
  · rintro ⟨h1, h2, h3⟩; exact ⟨h2, h1, h3⟩
  · rintro ⟨h1, h2, h3⟩; exact ⟨h2, h1, h3⟩

/-! ## Flags and timers -/

theorem flagOf_eq_one {c : Bool} : flagOf c = 1#8 ↔ c = true := by cases c <;> decide

theorem flagOf_eq_zero {c : Bool} : flagOf c = 0#8 ↔ c = false := by cases c <;> decide

theorem countDown_toNat (b : Byte) : (countDown b).toNat = b.toNat - 1 := by
  unfold countDown
  split
  · next h => subst h; rfl
  · next h =>
    have hpos : 0 < b.toNat := Nat.pos_of_ne_zero fun h0 => h (BitVec.eq_of_toNat_eq h0)
    have hlt := b.isLt
    have hone : (1 : Byte).toNat = 1 := rfl
    rw [BitVec.toNat_sub, hone]
    omega

/-! ## Fetch -/

theorem fetch_of_fits {s : State} (h : s.pc.toNat ≤ 0xFFE) :
    fetch s = .ok [s.readByte s.pc.toNat, s.readByte (s.pc.toNat + 1)] := by
  rw [fetch, if_pos (inMemory_iff.2 (Or.inr (by omega)))]

theorem fetch_of_not_fits {s : State} (h : 0xFFE < s.pc.toNat) :
    fetch s = .error .memoryOutOfRange := by
  rw [fetch, if_neg]
  rw [inMemory_iff]; omega

end Sys2Proof.Machine
end

