-- ==== Sys2Proof/Laws/PerInstr.lean ====
section
/-! SUPPORT. Facts stated of every instruction, one lemma per constructor. Family `EncodesInRow`: an
instruction's word selects the instruction's row of the opcode map (rule R50). -/

namespace Sys2Proof.Laws

theorem and_append {n m : Nat} (a c : BitVec n) (b d : BitVec m) :
    (a ++ b) &&& (c ++ d) = (a &&& c) ++ (b &&& d) := by
  apply BitVec.eq_of_getLsbD_eq
  intro j hj
  simp only [BitVec.getLsbD_and, BitVec.getLsbD_append]
  split <;> rfl

theorem and_zeros {n : Nat} (a : BitVec n) : a &&& BitVec.ofNat n 0 = BitVec.ofNat n 0 := by
  apply BitVec.eq_of_getLsbD_eq
  intro j hj
  simp

/-- The group nibble is all a mask `0xF000` keeps. -/
theorem wordNNN_and (g : BitVec 4) (nnn : Nat) :
    wordNNN g nnn &&& 0xF000#16 = (g &&& 0xF#4) ++ 0#12 := by
  have h := and_append g 0xF#4 (BitVec.ofNat 12 nnn) 0#12
  rw [and_zeros] at h
  exact h

theorem wordXNN_and (g : BitVec 4) (x : RegNum) (nn m : Byte) :
    wordXNN g x nn &&& ((0xF0#8 ++ m : BitVec 16)) = ((g &&& 0xF#4) ++ 0#4 : BitVec 8) ++ (nn &&& m) := by
  have h := and_append (g ++ (BitVec.ofFin x : BitVec 4) : BitVec 8) 0xF0#8 nn m
  have h2 := and_append g 0xF#4 (BitVec.ofFin x : BitVec 4) 0#4
  rw [and_zeros] at h2
  exact h.trans (congrArg (· ++ (nn &&& m)) h2)

theorem wordXYN_and (g : BitVec 4) (x y : RegNum) (n : Nat) (m : BitVec 4) :
    wordXYN g x y n &&& ((0xF0#8 ++ (0#4 ++ m : BitVec 8) : BitVec 16)) =
      ((g &&& 0xF#4) ++ 0#4 : BitVec 8) ++ (0#4 ++ (BitVec.ofNat 4 n &&& m) : BitVec 8) := by
  have h := and_append (g ++ (BitVec.ofFin x : BitVec 4) : BitVec 8) 0xF0#8
    ((BitVec.ofFin y : BitVec 4) ++ BitVec.ofNat 4 n : BitVec 8) (0#4 ++ m : BitVec 8)
  have h2 := and_append g 0xF#4 (BitVec.ofFin x : BitVec 4) 0#4
  have h3 := and_append (BitVec.ofFin y : BitVec 4) 0#4 (BitVec.ofNat 4 n) m
  rw [and_zeros] at h2 h3
  exact h.trans (congr (congrArg (fun u v : BitVec 8 => u ++ v) h2) h3)

end Sys2Proof.Laws

namespace Sys2Proof.Laws.EncodesInRow

/-- The word of `i` selects `i`'s row, and that row is one of the opcode map's. -/
def Statement (i : Instr) : Prop := selectsRow (encode i) (opcodeRow i) ∧ opcodeRow i ∈ opcodeMap

theorem cls : Statement (.cls) :=
  ⟨rfl, by simp [opcodeRow, opcodeMap]⟩

theorem ret : Statement (.ret) :=
  ⟨rfl, by simp [opcodeRow, opcodeMap]⟩

theorem jp (nnn : Nat) : Statement (.jp nnn) :=
  ⟨(wordNNN_and 0x1#4 nnn).trans rfl, by simp [opcodeRow, opcodeMap]⟩

theorem call (nnn : Nat) : Statement (.call nnn) :=
  ⟨(wordNNN_and 0x2#4 nnn).trans rfl, by simp [opcodeRow, opcodeMap]⟩

theorem seImm (x : RegNum) (nn : Byte) : Statement (.seImm x nn) :=
  ⟨(wordXNN_and 0x3#4 x nn 0#8).trans (by rw [and_zeros]; rfl), by simp [opcodeRow, opcodeMap]⟩

theorem sneImm (x : RegNum) (nn : Byte) : Statement (.sneImm x nn) :=
  ⟨(wordXNN_and 0x4#4 x nn 0#8).trans (by rw [and_zeros]; rfl), by simp [opcodeRow, opcodeMap]⟩

theorem seReg (x : RegNum) (y : RegNum) : Statement (.seReg x y) :=
  ⟨(wordXYN_and 0x5#4 x y 0x0 0xF#4).trans rfl, by simp [opcodeRow, opcodeMap]⟩

theorem ldImm (x : RegNum) (nn : Byte) : Statement (.ldImm x nn) :=
  ⟨(wordXNN_and 0x6#4 x nn 0#8).trans (by rw [and_zeros]; rfl), by simp [opcodeRow, opcodeMap]⟩

theorem addImm (x : RegNum) (nn : Byte) : Statement (.addImm x nn) :=
  ⟨(wordXNN_and 0x7#4 x nn 0#8).trans (by rw [and_zeros]; rfl), by simp [opcodeRow, opcodeMap]⟩

theorem ldReg (x : RegNum) (y : RegNum) : Statement (.ldReg x y) :=
  ⟨(wordXYN_and 0x8#4 x y 0x0 0xF#4).trans rfl, by simp [opcodeRow, opcodeMap]⟩

theorem orReg (x : RegNum) (y : RegNum) : Statement (.orReg x y) :=
  ⟨(wordXYN_and 0x8#4 x y 0x1 0xF#4).trans rfl, by simp [opcodeRow, opcodeMap]⟩

theorem andReg (x : RegNum) (y : RegNum) : Statement (.andReg x y) :=
  ⟨(wordXYN_and 0x8#4 x y 0x2 0xF#4).trans rfl, by simp [opcodeRow, opcodeMap]⟩

theorem xorReg (x : RegNum) (y : RegNum) : Statement (.xorReg x y) :=
  ⟨(wordXYN_and 0x8#4 x y 0x3 0xF#4).trans rfl, by simp [opcodeRow, opcodeMap]⟩

theorem addReg (x : RegNum) (y : RegNum) : Statement (.addReg x y) :=
  ⟨(wordXYN_and 0x8#4 x y 0x4 0xF#4).trans rfl, by simp [opcodeRow, opcodeMap]⟩

theorem sub (x : RegNum) (y : RegNum) : Statement (.sub x y) :=
  ⟨(wordXYN_and 0x8#4 x y 0x5 0xF#4).trans rfl, by simp [opcodeRow, opcodeMap]⟩

theorem shr (x : RegNum) (y : RegNum) : Statement (.shr x y) :=
  ⟨(wordXYN_and 0x8#4 x y 0x6 0xF#4).trans rfl, by simp [opcodeRow, opcodeMap]⟩

theorem subn (x : RegNum) (y : RegNum) : Statement (.subn x y) :=
  ⟨(wordXYN_and 0x8#4 x y 0x7 0xF#4).trans rfl, by simp [opcodeRow, opcodeMap]⟩

theorem shl (x : RegNum) (y : RegNum) : Statement (.shl x y) :=
  ⟨(wordXYN_and 0x8#4 x y 0xE 0xF#4).trans rfl, by simp [opcodeRow, opcodeMap]⟩

theorem sneReg (x : RegNum) (y : RegNum) : Statement (.sneReg x y) :=
  ⟨(wordXYN_and 0x9#4 x y 0x0 0xF#4).trans rfl, by simp [opcodeRow, opcodeMap]⟩

theorem ldI (nnn : Nat) : Statement (.ldI nnn) :=
  ⟨(wordNNN_and 0xA#4 nnn).trans rfl, by simp [opcodeRow, opcodeMap]⟩

theorem jpV0 (nnn : Nat) : Statement (.jpV0 nnn) :=
  ⟨(wordNNN_and 0xB#4 nnn).trans rfl, by simp [opcodeRow, opcodeMap]⟩

theorem rnd (x : RegNum) (nn : Byte) : Statement (.rnd x nn) :=
  ⟨(wordXNN_and 0xC#4 x nn 0#8).trans (by rw [and_zeros]; rfl), by simp [opcodeRow, opcodeMap]⟩

theorem drw (x : RegNum) (y : RegNum) (n : Nat) : Statement (.drw x y n) :=
  ⟨(wordXYN_and 0xD#4 x y n 0#4).trans (by rw [and_zeros]; rfl), by simp [opcodeRow, opcodeMap]⟩

theorem skp (x : RegNum) : Statement (.skp x) :=
  ⟨(wordXNN_and 0xE#4 x 0x9E#8 0xFF#8).trans rfl, by simp [opcodeRow, opcodeMap]⟩

theorem sknp (x : RegNum) : Statement (.sknp x) :=
  ⟨(wordXNN_and 0xE#4 x 0xA1#8 0xFF#8).trans rfl, by simp [opcodeRow, opcodeMap]⟩

theorem ldVxDt (x : RegNum) : Statement (.ldVxDt x) :=
  ⟨(wordXNN_and 0xF#4 x 0x07#8 0xFF#8).trans rfl, by simp [opcodeRow, opcodeMap]⟩

theorem ldVxK (x : RegNum) : Statement (.ldVxK x) :=
  ⟨(wordXNN_and 0xF#4 x 0x0A#8 0xFF#8).trans rfl, by simp [opcodeRow, opcodeMap]⟩

theorem ldDtVx (x : RegNum) : Statement (.ldDtVx x) :=
  ⟨(wordXNN_and 0xF#4 x 0x15#8 0xFF#8).trans rfl, by simp [opcodeRow, opcodeMap]⟩

theorem ldStVx (x : RegNum) : Statement (.ldStVx x) :=
  ⟨(wordXNN_and 0xF#4 x 0x18#8 0xFF#8).trans rfl, by simp [opcodeRow, opcodeMap]⟩

theorem addI (x : RegNum) : Statement (.addI x) :=
  ⟨(wordXNN_and 0xF#4 x 0x1E#8 0xFF#8).trans rfl, by simp [opcodeRow, opcodeMap]⟩

theorem ldF (x : RegNum) : Statement (.ldF x) :=
  ⟨(wordXNN_and 0xF#4 x 0x29#8 0xFF#8).trans rfl, by simp [opcodeRow, opcodeMap]⟩

theorem ldB (x : RegNum) : Statement (.ldB x) :=
  ⟨(wordXNN_and 0xF#4 x 0x33#8 0xFF#8).trans rfl, by simp [opcodeRow, opcodeMap]⟩

theorem ldMemVx (x : RegNum) : Statement (.ldMemVx x) :=
  ⟨(wordXNN_and 0xF#4 x 0x55#8 0xFF#8).trans rfl, by simp [opcodeRow, opcodeMap]⟩

theorem ldVxMem (x : RegNum) : Statement (.ldVxMem x) :=
  ⟨(wordXNN_and 0xF#4 x 0x65#8 0xFF#8).trans rfl, by simp [opcodeRow, opcodeMap]⟩

end Sys2Proof.Laws.EncodesInRow
end

