-- ==== Sys2Proof/Laws/Step.lean ====
section
/-! SUPPORT. What a `STEP` can do, said once (rules R60 to R64): proofs about `step` cite these. -/

namespace Sys2Proof.Machine

theorem executePhase_of_not_fetchable {s : State} (h : ¬Fetchable s) :
    executePhase s = .fault .memoryOutOfRange := by
  rw [executePhase, fetch_of_not_fits (by unfold Fetchable at h; omega)]
  rfl

theorem executePhase_of_unknown {s : State} {r : Reject} (hf : Fetchable s)
    (hd : decodeWord (wordAtPc s) = .error r) : executePhase s = .fault (rejectFault r) := by
  unfold wordAtPc at hd
  rw [executePhase, fetch_of_fits hf]
  simp only [decode, hd, raise]

theorem executePhase_of_decoded {s : State} {i : Instr} (hf : Fetchable s)
    (hd : decodeWord (wordAtPc s) = .ok i) : executePhase s = exec i s := by
  unfold wordAtPc at hd
  rw [executePhase, fetch_of_fits hf]
  simp only [decode, hd]

/-- The decoder over a full word rejects for one reason only (rule R51). -/
theorem decodeWord_error {w : Word} {r : Reject} (h : decodeWord w = .error r) : r = .unknownOpcode := by
  unfold decodeWord at h
  split at h
  case h_1 => unfold decodeGroup0 at h; split_ifs at h; cases h; rfl
  case h_9 => unfold decodeGroup8 at h; split_ifs at h; cases h; rfl
  case h_15 => unfold decodeGroupE at h; split_ifs at h; cases h; rfl
  case h_16 => unfold decodeGroupF at h; split_ifs at h; cases h; rfl
  case h_6 => split_ifs at h; cases h; rfl
  case h_10 => split_ifs at h; cases h; rfl
  case h_17 => cases h; rfl
  all_goals cases h

/-- The three ways an execute phase goes: no fetch, no instruction, or the instruction's meaning. -/
theorem executePhase_cases (s : State) :
    (¬Fetchable s ∧ executePhase s = .fault .memoryOutOfRange) ∨
    (Fetchable s ∧ decodeWord (wordAtPc s) = .error .unknownOpcode ∧
      executePhase s = .fault .unknownOpcode) ∨
    (∃ i, Fetchable s ∧ decodeWord (wordAtPc s) = .ok i ∧ executePhase s = exec i s) := by
  by_cases hf : Fetchable s
  · cases hd : decodeWord (wordAtPc s) with
    | error r =>
      have hr := decodeWord_error hd
      subst hr
      exact .inr (.inl ⟨hf, rfl, executePhase_of_unknown hf hd⟩)
    | ok i => exact .inr (.inr ⟨i, hf, rfl, executePhase_of_decoded hf hd⟩)
  · exact .inl ⟨hf, executePhase_of_not_fetchable hf⟩

/-- All a completed `STEP` can have done: fetch, decode, one instruction's meaning, one timer phase. -/
theorem step_eq_next {s t : State} :
    step s = .next t ↔ ∃ i u, Fetchable s ∧ decodeWord (wordAtPc s) = .ok i ∧ exec i s = .next u ∧
      t = u.endStep := by
  unfold step
  rcases executePhase_cases s with ⟨hf, he⟩ | ⟨hf, hd, he⟩ | ⟨i, hf, hd, he⟩
  · simp [he, hf]
  · simp [he, hd]
  · rw [he, andThen_eq_next]
    constructor
    · rintro ⟨u, hu, ht⟩
      injection ht with ht
      exact ⟨i, u, hf, hd, hu, ht.symm⟩
    · rintro ⟨j, u, -, hj, hu, rfl⟩
      rw [hd] at hj
      injection hj with hj
      subst hj
      exact ⟨u, hu, rfl⟩

theorem step_of_decoded_next {s u : State} {i : Instr} (hf : Fetchable s)
    (hd : decodeWord (wordAtPc s) = .ok i) (he : exec i s = .next u) : step s = .next u.endStep :=
  step_eq_next.2 ⟨i, u, hf, hd, he, rfl⟩

theorem step_of_decoded_fault {s : State} {i : Instr} {kind : Fault} (hf : Fetchable s)
    (hd : decodeWord (wordAtPc s) = .ok i) (he : exec i s = .fault kind) : step s = .fault kind := by
  rw [step, executePhase_of_decoded hf hd, he]
  rfl

/-- After a fetch the advance of `pc` cannot wrap its 16 bits (rule R63). -/
theorem toNat_pc_add_two {s : State} (h : Fetchable s) : (s.pc + 2).toNat = s.pc.toNat + 2 := by
  unfold Fetchable at h
  rw [BitVec.toNat_add]
  exact Nat.mod_eq_of_lt (by simp; omega)

/-- After a fetch a skip cannot wrap the 16 bits of `pc` (rule R85). -/
theorem toNat_pc_add_four {s : State} (h : Fetchable s) : (s.pc + 4).toNat = s.pc.toNat + 4 := by
  unfold Fetchable at h
  rw [BitVec.toNat_add]
  exact Nat.mod_eq_of_lt (by simp; omega)

end Sys2Proof.Machine
end

