-- ==== Sys2Proof/Tests/Slice0.lean ====
section
/-! SUPPORT. The model's own tests: ill-formed terms refused, written-out words decoded, one step on
small states (expected results from spec/95_test_vectors.md, by the vector's id), and for every statement
with hypotheses a concrete state and operands that meet them. -/

open Sys2Proof Sys2Proof.Machine

namespace Sys2Proof.Tests

/-! ## WellFormed: each check refuses a term out of its range -/

theorem test_jp_address_too_wide : (Instr.jp 0x1000).wellFormed = false := by decide
theorem test_call_address_too_wide : (Instr.call 0x1000).wellFormed = false := by decide
theorem test_ldI_address_too_wide : (Instr.ldI 0x1000).wellFormed = false := by decide
theorem test_jpV0_address_too_wide : (Instr.jpV0 0x1000).wellFormed = false := by decide
theorem test_drw_row_count_too_wide : (Instr.drw 0 0 16).wellFormed = false := by decide

/-! ## Decode: a word of every row, bits written out from rules R47 and R50 -/

theorem test_decode_cls : decodeWord 0b0000000011100000#16 = .ok .cls := by decide
theorem test_decode_ret : decodeWord 0b0000000011101110#16 = .ok .ret := by decide
theorem test_decode_jp : decodeWord 0b0001101010111100#16 = .ok (.jp 0xABC) := by decide
theorem test_decode_call : decodeWord 0b0010001000001010#16 = .ok (.call 0x20A) := by decide
theorem test_decode_seImm : decodeWord 0b0011101001000010#16 = .ok (.seImm 10 0x42) := by decide
theorem test_decode_sneImm : decodeWord 0b0100101001000010#16 = .ok (.sneImm 10 0x42) := by decide
theorem test_decode_seReg : decodeWord 0b0101000100100000#16 = .ok (.seReg 1 2) := by decide
theorem test_decode_ldImm : decodeWord 0b0110101001111111#16 = .ok (.ldImm 10 0x7F) := by decide
theorem test_decode_addImm : decodeWord 0b0111001100000010#16 = .ok (.addImm 3 0x02) := by decide
theorem test_decode_ldReg : decodeWord 0b1000000100100000#16 = .ok (.ldReg 1 2) := by decide
theorem test_decode_orReg : decodeWord 0b1000000100100001#16 = .ok (.orReg 1 2) := by decide
theorem test_decode_andReg : decodeWord 0b1000000100100010#16 = .ok (.andReg 1 2) := by decide
theorem test_decode_xorReg : decodeWord 0b1000000100100011#16 = .ok (.xorReg 1 2) := by decide
theorem test_decode_addReg : decodeWord 0b1000000100100100#16 = .ok (.addReg 1 2) := by decide
theorem test_decode_sub : decodeWord 0b1000000100100101#16 = .ok (.sub 1 2) := by decide
theorem test_decode_shr : decodeWord 0b1000000100100110#16 = .ok (.shr 1 2) := by decide
theorem test_decode_subn : decodeWord 0b1000000100100111#16 = .ok (.subn 1 2) := by decide
theorem test_decode_shl : decodeWord 0b1000000100101110#16 = .ok (.shl 1 2) := by decide
theorem test_decode_sneReg : decodeWord 0b1001000100100000#16 = .ok (.sneReg 1 2) := by decide
theorem test_decode_ldI : decodeWord 0b1010000100100011#16 = .ok (.ldI 0x123) := by decide
theorem test_decode_jpV0 : decodeWord 0b1011001100000000#16 = .ok (.jpV0 0x300) := by decide
theorem test_decode_rnd : decodeWord 0b1100000100001111#16 = .ok (.rnd 1 0x0F) := by decide
theorem test_decode_drw : decodeWord 0b1101000000010101#16 = .ok (.drw 0 1 5) := by decide
theorem test_decode_skp : decodeWord 0b1110001110011110#16 = .ok (.skp 3) := by decide
theorem test_decode_sknp : decodeWord 0b1110001110100001#16 = .ok (.sknp 3) := by decide
theorem test_decode_ldVxDt : decodeWord 0b1111001100000111#16 = .ok (.ldVxDt 3) := by decide
theorem test_decode_ldVxK : decodeWord 0b1111001100001010#16 = .ok (.ldVxK 3) := by decide
theorem test_decode_ldDtVx : decodeWord 0b1111001100010101#16 = .ok (.ldDtVx 3) := by decide
theorem test_decode_ldStVx : decodeWord 0b1111001100011000#16 = .ok (.ldStVx 3) := by decide
theorem test_decode_addI : decodeWord 0b1111001100011110#16 = .ok (.addI 3) := by decide
theorem test_decode_ldF : decodeWord 0b1111001100101001#16 = .ok (.ldF 3) := by decide
theorem test_decode_ldB : decodeWord 0b1111001100110011#16 = .ok (.ldB 3) := by decide
theorem test_decode_ldMemVx : decodeWord 0b1111001001010101#16 = .ok (.ldMemVx 2) := by decide
theorem test_decode_ldVxMem : decodeWord 0b1111001001100101#16 = .ok (.ldVxMem 2) := by decide

/-- Words of rule R51, one of each kind (T-E3 to T-E3k). -/
theorem test_unknown_words :
    [0x0000#16, 0x00E1#16, 0x0123#16, 0x5121#16, 0x8128#16, 0x812F#16, 0x9121#16, 0xE19F#16, 0xE100#16,
      0xF100#16, 0xF175#16].all (fun w => decide (decodeWord w = .error .unknownOpcode)) = true := by
  decide

theorem test_decode_bytes_big_endian : decode [0x6A, 0xBB, 0x12] = .ok (.ldImm 10 0xBB, [0x12]) := by
  decide
theorem test_decode_one_byte : decode [0x6A] = .error .tooShort := by decide
theorem test_table_word : decodeTableWord 16 0xD015 = some (.drw 0 1 5) := by decide
theorem test_table_word_unknown : decodeTableWord 16 0xFFFF = none := by decide

/-! ## One step on a small state -/

/-- The base state `B` of spec/95_test_vectors.md. -/
def base : State := { State.reset with needsRedraw := false }

/-- `base` with registers set. -/
def regs (l : List (RegNum × Byte)) : State := l.foldl (fun s p => s.setV p.1 p.2) base

/-- `s` with the word under test at `pc`. -/
def put (w : Word) (s : State) : State := s.withFetchWord 16 w.toNat

/-- What a view of the state shows after the `STEP` of `w` from `s`, if that completes. -/
def after {α : Type} (w : Word) (s : State) (view : State → α) : Option α :=
  match step (put w s) with
  | .next t => some (view t)
  | .fault _ => none
  | .refused _ => none

/-- The error of the `STEP` from `s`. -/
def errorOf (s : State) : Option Fault :=
  match step s with
  | .next _ => none
  | .fault kind => some kind
  | .refused _ => none

/-- The lit pixels as `(row, column)`. -/
def lit (s : State) : List (Nat × Nat) :=
  (List.finRange 32).flatMap fun y =>
    ((List.finRange 64).filter fun x => s.fb.pixel x y).map fun x => (y.val, x.val)

/-- T-A1 -/
theorem test_ldImm : after 0x6A7F base (fun t => (t.getV 10, t.pc)) = some (0x7F, 0x202) := by decide
/-- T-A2 -/
theorem test_addImm_wraps_without_flag :
    after 0x7005 (regs [(0, 0xFE), (15, 7)]) (fun t => (t.getV 0, t.getV 15)) = some (3, 7) := by decide
/-- T-A3 -/
theorem test_ldReg : after 0x8120 (regs [(1, 1), (2, 0xAB), (15, 5)])
    (fun t => (t.getV 1, t.getV 2, t.getV 15)) = some (0xAB, 0xAB, 5) := by decide
/-- T-A4 -/
theorem test_orReg : after 0x8121 (regs [(1, 0xF0), (2, 0x0F), (15, 1)])
    (fun t => (t.getV 1, t.getV 15)) = some (0xFF, 1) := by decide
/-- T-A5 -/
theorem test_andReg : after 0x8122 (regs [(1, 0xF0), (2, 0x3C), (15, 1)])
    (fun t => (t.getV 1, t.getV 15)) = some (0x30, 1) := by decide
/-- T-A6 -/
theorem test_xorReg : after 0x8123 (regs [(1, 0xFF), (2, 0x0F), (15, 1)])
    (fun t => (t.getV 1, t.getV 15)) = some (0xF0, 1) := by decide
/-- T-A7b: sum 255 is no carry -/
theorem test_addReg_no_carry : after 0x8124 (regs [(1, 200), (2, 55), (15, 1)])
    (fun t => (t.getV 1, t.getV 15)) = some (255, 0) := by decide
/-- T-A14: the result stays in `V[15]` -/
theorem test_addReg_into_vf : after 0x8F14 (regs [(15, 200), (1, 100)])
    (fun t => t.getV 15) = some 44 := by decide
/-- T-A8 -/
theorem test_sub_borrows : after 0x8125 (regs [(1, 5), (2, 7)])
    (fun t => (t.getV 1, t.getV 15)) = some (0xFE, 0) := by decide
/-- T-A19: the operand is the old `V[15]` -/
theorem test_sub_reads_old_vf : after 0x81F5 (regs [(1, 7), (15, 5)])
    (fun t => (t.getV 1, t.getV 15)) = some (2, 1) := by decide
/-- T-A9: `V[Y]` ignored -/
theorem test_shr : after 0x8126 (regs [(1, 5), (2, 0xFF)])
    (fun t => (t.getV 1, t.getV 2, t.getV 15)) = some (2, 0xFF, 1) := by decide
/-- T-A10b -/
theorem test_subn_borrows : after 0x8127 (regs [(1, 7), (2, 5)])
    (fun t => (t.getV 1, t.getV 15)) = some (0xFE, 0) := by decide
/-- T-A11 -/
theorem test_shl : after 0x812E (regs [(1, 0x81)])
    (fun t => (t.getV 1, t.getV 15)) = some (0x02, 1) := by decide
/-- T-A12b -/
theorem test_rnd_masks : after 0xC10F ((regs [(15, 1)]).withRnd 0xA7)
    (fun t => (t.getV 1, t.getV 15)) = some (0x07, 1) := by decide

/-- T-C1c: odd target -/
theorem test_jp_odd : after 0x1201 base (fun t => t.pc) = some 0x201 := by decide
/-- T-C2d: the return address may be `0x1000` -/
theorem test_call_at_top : after 0x2FFF (base.setPc 0xFFE)
    (fun t => (t.stack[0], t.sp, t.pc)) = some (0x1000, 1, 0xFFF) := by decide
/-- T-C2c -/
theorem test_call_full : errorOf (put 0x2300 { base with sp := 16 }) = some .stackOverflow := by decide
/-- T-C3 -/
theorem test_ret : after 0x00EE ({ base with pc := 0x300, sp := 1, stack := base.stack.set 0 0x206 })
    (fun t => (t.sp, t.pc, t.stack[0])) = some (0, 0x206, 0x206) := by decide
/-- T-C3b -/
theorem test_ret_empty : errorOf (put 0x00EE base) = some .stackUnderflow := by decide
/-- T-C4b: not wrapped -/
theorem test_jpV0_above_memory : after 0xBFFF (regs [(0, 0xFF)]) (fun t => t.pc) = some 0x10FE := by
  decide
/-- T-C9: a skip past the end of memory is no error -/
theorem test_seImm_at_top : after 0x3000 (base.setPc 0xFFE) (fun t => t.pc) = some 0x1002 := by decide
/-- T-C6 -/
theorem test_sneImm_equal : after 0x4A42 (regs [(10, 0x42)]) (fun t => t.pc) = some 0x202 := by decide
/-- T-C7b -/
theorem test_seReg_differs : after 0x5120 (regs [(1, 9), (2, 8)]) (fun t => t.pc) = some 0x202 := by
  decide
/-- T-C8b -/
theorem test_sneReg_differs : after 0x9120 (regs [(1, 9), (2, 8)]) (fun t => t.pc) = some 0x204 := by
  decide

/-- T-D1 -/
theorem test_cls : after 0x00E0
    { base with fb := (base.fb.setPixel 0 0 true).setPixel 63 31 true }
    (fun t => (t.fb, t.needsRedraw)) = some (Framebuffer.blank, true) := by decide
/-- T-D3: horizontal wrap -/
theorem test_drw_wraps : after 0xD011 (((regs [(0, 60)]).setI 0x300).storeBytes 0x300 [0xFF])
    (fun t => (lit t, t.getV 15)) =
    some ([(0, 0), (0, 1), (0, 2), (0, 3), (0, 60), (0, 61), (0, 62), (0, 63)], 0) := by decide +kernel
/-- T-D4: one pixel set, one cleared -/
theorem test_drw_collides : after 0xD011
    { ((base.setI 0x300).storeBytes 0x300 [0xC0]) with
      fb := (base.fb.setPixel 1 0 true).setPixel 2 0 true }
    (fun t => (lit t, t.getV 15)) = some ([(0, 0), (0, 2)], 1) := by decide +kernel

/-- T-K4c: `0x15` is no key and is not masked to 5 -/
theorem test_skp_no_such_key : after 0xE39E ((regs [(3, 0x15)]).setKeys 0x20)
    (fun t => t.pc) = some 0x202 := by decide
/-- T-K4 -/
theorem test_skp_pressed : after 0xE39E ((regs [(3, 5)]).setKeys 0x20) (fun t => t.pc) = some 0x204 := by
  decide
/-- T-K5c -/
theorem test_sknp_no_such_key : after 0xE3A1 ((regs [(3, 0x15)]).setKeys 0x20)
    (fun t => t.pc) = some 0x204 := by decide
/-- T-K1: before the decrement -/
theorem test_ldVxDt : after 0xF307 (base.setDt 9) (fun t => (t.getV 3, t.dt)) = some (9, 8) := by decide
/-- T-K6: blocked, and the timers run -/
theorem test_ldVxK_blocks : after 0xF30A ((base.setDt 2).setSt 1)
    (fun t => (t.blockedOnKey, t.pc, t.dt, t.st)) = some (true, 0x200, 1, 0) := by decide
/-- T-K6b: the lowest key -/
theorem test_ldVxK_lowest : after 0xF30A (base.setKeys 0x208)
    (fun t => (t.getV 3, t.blockedOnKey, t.pc)) = some (3, false, 0x202) := by decide
/-- T-K2 -/
theorem test_ldDtVx : after 0xF315 (regs [(3, 9)]) (fun t => t.dt) = some 8 := by decide
/-- T-K3b: the pulse in the same `STEP` -/
theorem test_ldStVx_pulse : let e := operate (.step 0) (put 0xF318 (regs [(3, 1)]))
    (e.toneRequest, e.state.st, e.outputs.toneActive) = (true, 0, false) := by decide
/-- T-K3f: no pulse where the execute phase already made `ST` 0 -/
theorem test_ldStVx_no_pulse : let e := operate (.step 0) (put 0xF318 ((regs [(3, 0)]).setSt 1))
    (e.toneRequest, e.state.st) = (false, 0) := by decide

/-- T-M1b -/
theorem test_ldI : after 0xAFFF base (fun t => t.i) = some 0xFFF := by decide
/-- T-M2 -/
theorem test_addI_wraps : after 0xF31E ((regs [(3, 5)]).setI 0xFFE)
    (fun t => (t.i, t.getV 15)) = some (0x003, 0) := by decide
/-- T-M3b: the high nibble is ignored -/
theorem test_ldF : after 0xF329 (regs [(3, 0x3A)]) (fun t => t.i) = some 0x032 := by decide
/-- T-M4 -/
theorem test_ldB : after 0xF333 ((regs [(3, 254)]).setI 0x300)
    (fun t => [t.readByte 0x300, t.readByte 0x301, t.readByte 0x302]) = some [2, 5, 4] := by decide
/-- T-M4d -/
theorem test_ldB_at_top : errorOf (put 0xF333 (base.setI 0xFFE)) = some .memoryOutOfRange := by decide
/-- T-M5 -/
theorem test_ldMemVx : after 0xF255 ((regs [(0, 1), (1, 2), (2, 3), (3, 4)]).setI 0x300)
    (fun t => ([0, 1, 2, 3].map fun k => t.readByte (0x300 + k), t.i)) = some ([1, 2, 3, 0], 0x300) := by
  decide
/-- T-M5c -/
theorem test_ldMemVx_at_top : errorOf (put 0xF155 (base.setI 0xFFF)) = some .memoryOutOfRange := by decide
/-- T-M6 -/
theorem test_ldVxMem : after 0xF265
    (((regs [(3, 0x55)]).setI 0x300).storeBytes 0x300 [7, 8, 9, 0xA])
    (fun t => (t.getV 0, t.getV 1, t.getV 2, t.getV 3)) = some (7, 8, 9, 0x55) := by decide
/-- T-M6c: the font -/
theorem test_ldVxMem_font : after 0xFF65 base (fun t => t.v.toList) =
    some [0xF0, 0x90, 0x90, 0x90, 0xF0, 0x20, 0x60, 0x20, 0x20, 0x70, 0xF0, 0x10, 0xF0, 0x80, 0xF0, 0xF0] := by
  decide

/-- T-E1: the state, timers included, is as it was -/
theorem test_unknown_leaves_state :
    let s := put 0xFFFF (((regs [(0, 1)]).setDt 3).setSt 2)
    operate (.step 0) s = ⟨s, .error .unknownOpcode, false⟩ := by decide
/-- T-E5: the fetch error comes first -/
theorem test_fetch_error_first : errorOf ((base.setPc 0xFFF).storeBytes 0xFFF [0xFF]) =
    some .memoryOutOfRange := by decide
/-- T-R6 of section 2.7: `RESET`, then a `STEP` with nothing loaded -/
theorem test_step_after_reset : errorOf State.reset = some .unknownOpcode := by decide
/-- `RESET` writes the machine's own `FONT` (rule R140), here one of 80 bytes `0xAA`. -/
theorem test_reset_takes_any_font :
    let t := (operate .reset { base with font := Vector.replicate 80 0xAA, mem := [(0, 1)] }).state
    (t.readByte 0, t.readByte 79, t.readByte 80) = (0xAA, 0xAA, 0) := by decide
/-- Writing what an unlisted address reads as removes the entry: equal memories are equal lists. -/
theorem test_memory_canonical : (base.storeBytes 0x300 [7]).storeBytes 0x300 [0] = base := by decide

/-! ## Witnesses: for every statement with hypotheses, values that meet them -/

theorem fetchable_of {s : State} (h : decide (s.pc.toNat ≤ 0xFFE) = true) : Fetchable s := by
  unfold Fetchable
  exact of_decide_eq_true h

theorem aboutToRun_of {i : Instr} {s : State} (h : decide (s.pc.toNat ≤ 0xFFE) = true)
    (hd : decodeWord (wordAtPc s) = .ok i) : AboutToRun i s :=
  ⟨fetchable_of h, hd⟩

/-- The last address a fetch succeeds at. -/
def atTop : State := base.setPc 0xFFE

theorem fetchable_base : Fetchable base := fetchable_of rfl
theorem fetchable_atTop : Fetchable atTop := fetchable_of rfl

theorem not_collides_blank (x0 y0 : Byte) (n : Nat) : ¬SpriteCollides base x0 y0 n := by
  rintro ⟨cx, cy, -, h⟩
  have hb : base.fb.pixel cx cy = false := Framebuffer.pixel_blank cx cy
  rw [hb] at h
  cases h

theorem no_key_base : ¬SomeKeyPressed base := by
  rintro ⟨c, -, h⟩
  have hb : base.k.getLsbD c = false := by simp [base, State.reset]
  rw [hb] at h
  cases h

theorem inv_of_reset_fields {s : State} (hi : s.i = 0) (hp : s.pc = 0x200) (hs : s.sp = 0)
    (hm : Memory.wf s.font s.mem = true) : Inv s :=
  ⟨by rw [hi]; decide, by rw [hp]; decide, fun j hj => absurd hj (by rw [hs]; simp), hm⟩

theorem witness_DecodeOfEncodeIsIdentity :
    (Instr.jp 0xFFF).wellFormed = true ∧ (Instr.call 0).wellFormed = true ∧
    (Instr.drw 15 15 15).wellFormed = true ∧ (Instr.shr 15 9).wellFormed = true := by decide

theorem witness_EncodeOfDecodeIsIdentity : decodeWord 0x8F16#16 = .ok (.shr 15 1) := by decide

theorem witness_DecodeAcceptsExactlyTheOpcodeMap :
    ((0xF00F#16, 0x8006#16) ∈ opcodeMap ∧ selectsRow 0x8F16#16 (0xF00F#16, 0x8006#16)) ∧
    decodeWord 0x8F16#16 = .ok (.shr 15 1) ∧ (∀ r ∈ opcodeMap, ¬selectsRow 0xFFFF#16 r) :=
  ⟨⟨by simp [opcodeMap], by decide⟩, by decide, by simp [opcodeMap]⟩

theorem witness_StepRunsTheDecodedInstruction :
    (AboutToRun (.ldImm 10 0x7F) (put 0x6A7F atTop) ∧
      ∃ u, exec (.ldImm 10 0x7F) (put 0x6A7F atTop) = .next u) ∧
    (AboutToRun .ret (put 0x00EE base) ∧ exec .ret (put 0x00EE base) = .fault .stackUnderflow) :=
  ⟨⟨aboutToRun_of rfl rfl, _, rfl⟩, aboutToRun_of rfl rfl, rfl⟩

theorem witness_PlacedWordIsTheNextInstruction : Fetchable atTop := fetchable_atTop

theorem witness_StepFaultsExactlyInPriorityOrder :
    step (base.setPc 0xFFF) = .fault .memoryOutOfRange ∧ stepFault base = some .unknownOpcode ∧
    stepFault (put 0x2300 { base with sp := 16 }) = some .stackOverflow ∧
    stepFault (put 0xF155 (base.setI 0xFFF)) = some .memoryOutOfRange := ⟨rfl, rfl, rfl, rfl⟩

theorem witness_StepCompletesOrFaults : stepFault (put 0x6A7F atTop) = none := rfl

theorem witness_ErrorsLeaveTheStateUnchanged :
    (operate (.step 0xFF) State.reset).result = .error .unknownOpcode ∧
    (operate (.load (List.replicate 3585 0xAA)) State.reset).result = .error .programTooLarge :=
  ⟨rfl, by rw [operate, load, if_neg (by rw [List.length_replicate]; decide)]; rfl⟩

theorem witness_FaultingStepFaultsAgain : step (put 0x00EE base) = .fault .stackUnderflow := rfl

theorem witness_EveryCompletedStepCountsBothTimersDown :
    (AboutToRun (.ldDtVx 3) (put 0xF315 (regs [(3, 255)])) ∧
      ∃ t, step (put 0xF315 (regs [(3, 255)])) = .next t) ∧
    (AboutToRun (.ldStVx 3) (put 0xF318 (regs [(3, 0)])) ∧
      ∃ t, step (put 0xF318 (regs [(3, 0)])) = .next t) ∧
    (AboutToRun .cls (put 0x00E0 (base.setDt 1)) ∧ (∀ x, Instr.cls ≠ .ldDtVx x) ∧
      (∀ x, Instr.cls ≠ .ldStVx x) ∧ ∃ t, step (put 0x00E0 (base.setDt 1)) = .next t) :=
  ⟨⟨aboutToRun_of rfl rfl, _, rfl⟩, ⟨aboutToRun_of rfl rfl, _, rfl⟩, aboutToRun_of rfl rfl, nofun, nofun,
    _, rfl⟩

theorem witness_TonePulsesWhenSoundTimerLeavesOne :
    AboutToRun (.ldStVx 3) (put 0xF318 (regs [(3, 1)])) ∧ AboutToRun .cls (put 0x00E0 (base.setSt 1)) ∧
    AboutToRun .ret (put 0x00EE (base.setSt 1)) :=
  ⟨aboutToRun_of rfl rfl, aboutToRun_of rfl rfl, aboutToRun_of rfl rfl⟩

theorem witness_RandomByteReachesOnlyCXNN :
    AboutToRun (.call 0x300) (put 0x2300 base) ∧ ∀ x nn, Instr.call 0x300 ≠ .rnd x nn :=
  ⟨aboutToRun_of rfl rfl, nofun⟩

theorem witness_KeysReachOnlyTheKeyInstructions :
    (∀ x, Instr.ldI 0xFFF ≠ .skp x) ∧ (∀ x, Instr.ldI 0xFFF ≠ .sknp x) ∧
    (∀ x, Instr.ldI 0xFFF ≠ .ldVxK x) ∧ ∃ t, exec (.ldI 0xFFF) base = .next t :=
  ⟨nofun, nofun, nofun, _, rfl⟩

theorem witness_EngineWritesOnlyWhatItsTableSays :
    AboutToRun (.ldMemVx 0) (put 0xF055 (base.setI 0xFFF)) ∧
    (∃ t, exec (.ldMemVx 0) (put 0xF055 (base.setI 0xFFF)) = .next t) ∧
    ∃ t, step (put 0xF055 (base.setI 0xFFF)) = .next t :=
  ⟨aboutToRun_of rfl rfl, ⟨_, rfl⟩, _, rfl⟩

theorem witness_StoreIsSeenByTheNextFetch :
    let s := put 0xF155 ((base.setPc 0xFFC).setI 0xFFE)
    AboutToRun (.ldMemVx 1) s ∧ s.i.toNat + (1 : RegNum).val ≤ 0xFFF ∧
    s.i.toNat + (0 : RegNum).val = s.pc.toNat + 2 ∧ (1 : RegNum).val = (0 : RegNum).val + 1 ∧
    (1 : RegNum).val ≤ (1 : RegNum).val :=
  ⟨aboutToRun_of rfl rfl, by decide, by decide, by decide, by decide⟩

theorem witness_StepKeepsTheInvariants :
    Inv (put 0xBFFF (regs [(0, 0xFF)])) ∧ ∃ t, step (put 0xBFFF (regs [(0, 0xFF)])) = .next t :=
  ⟨inv_of_reset_fields rfl rfl rfl rfl, _, rfl⟩

theorem witness_ReachableStatesMeetTheInvariants :
    Reachable (operateAll [.load [0x6A, 0x7F], .setKeys 1, .step 0, .clearRedraw] State.reset) :=
  .operate _ (.operate _ (.operate _ (.operate _ (.reset defaultFont))))

theorem witness_BlockedFlagMeansPcIsAtFX0A :
    let s := put 0xF30A (base.setBlocked true)
    BlockedInv s ∧ s.blockedOnKey = true ∧ ∃ t, step s = .next t ∧ t.blockedOnKey = true :=
  ⟨fun _ => ⟨fetchable_of rfl, 3, rfl⟩, rfl, _, rfl, rfl⟩

theorem witness_IdleLoopsNeverFault :
    AboutToRun (.jp (put 0x1FFE atTop).pc.toNat) (put 0x1FFE atTop) ∧
    (∃ x, AboutToRun (.ldVxK x) (put 0xFF0A base)) ∧ ¬SomeKeyPressed (put 0xFF0A base) :=
  ⟨aboutToRun_of rfl rfl, ⟨15, aboutToRun_of rfl rfl⟩, no_key_base⟩

theorem witness_LoadCopiesTheImageOrRefusesIt :
    (List.replicate 3584 (0xAA : Byte)).length ≤ 3584 ∧ 3584 < (List.replicate 3585 (0xAA : Byte)).length := by
  rw [List.length_replicate, List.length_replicate]
  decide

theorem witness_LoadImmediateWritesVx : 0x6FFF#16 &&& 0xF000 = 0x6000 ∧ Fetchable atTop :=
  ⟨by decide, fetchable_atTop⟩
theorem witness_AddImmediateWrapsWithoutFlag : 0x7FFF#16 &&& 0xF000 = 0x7000 ∧ Fetchable atTop :=
  ⟨by decide, fetchable_atTop⟩
theorem witness_CopyRegisterWritesVx : 0x8FF0#16 &&& 0xF00F = 0x8000 ∧ Fetchable atTop :=
  ⟨by decide, fetchable_atTop⟩
theorem witness_BitwiseOperationsWriteVxOnly :
    (0x8FF1#16 &&& 0xF00F = 0x8001 ∧ 0x8FF2#16 &&& 0xF00F = 0x8002 ∧ 0x8FF3#16 &&& 0xF00F = 0x8003) ∧
    Fetchable atTop :=
  ⟨by decide, fetchable_atTop⟩

theorem witness_AddRegistersCarriesIntoVF :
    Fetchable atTop ∧ (1 : RegNum) ≠ VF ∧
    255 < ((regs [(1, 200), (2, 56)]).getV 1).toNat + ((regs [(1, 200), (2, 56)]).getV 2).toNat ∧
    ((regs [(1, 200), (2, 55)]).getV 1).toNat + ((regs [(1, 200), (2, 55)]).getV 2).toNat ≤ 255 :=
  ⟨fetchable_atTop, by decide, by decide, by decide⟩

theorem witness_SubtractionsWriteNoBorrowIntoVF :
    Fetchable atTop ∧ (1 : RegNum) ≠ VF ∧
    ((regs [(1, 7), (2, 7)]).getV 2).toNat ≤ ((regs [(1, 7), (2, 7)]).getV 1).toNat ∧
    ((regs [(1, 7), (2, 8)]).getV 1).toNat < ((regs [(1, 7), (2, 8)]).getV 2).toNat ∧
    ((regs [(1, 7), (2, 7)]).getV 1).toNat ≤ ((regs [(1, 7), (2, 7)]).getV 2).toNat ∧
    ((regs [(1, 8), (2, 7)]).getV 2).toNat < ((regs [(1, 8), (2, 7)]).getV 1).toNat :=
  ⟨fetchable_atTop, by decide, by decide, by decide, by decide, by decide⟩

theorem witness_ShiftsWriteTheLostBitIntoVF : Fetchable atTop ∧ (14 : RegNum) ≠ VF :=
  ⟨fetchable_atTop, by decide⟩
theorem witness_RandomWritesMaskedByte : Fetchable atTop := fetchable_atTop

theorem witness_JumpSetsPc : 0x1FFF#16 &&& 0xF000 = 0x1000 ∧ (Instr.jp 0xFFF).wellFormed = true := by decide
theorem witness_JumpWithOffsetAddsV0 : (Instr.jpV0 0xFFF).wellFormed = true := by decide

theorem witness_CallPushesReturnAddress :
    (Instr.call 0xFFF).wellFormed = true ∧
    (Fetchable { atTop with sp := 15 } ∧ ({ atTop with sp := 15 } : State).sp.val < 16) ∧
    (Fetchable { atTop with sp := 16 } ∧ ({ atTop with sp := 16 } : State).sp.val = 16) :=
  ⟨by decide, ⟨fetchable_of rfl, by decide⟩, fetchable_of rfl, by decide⟩

theorem witness_ReturnPopsIntoPc :
    0 < ({ base with sp := 1 } : State).sp.val ∧ 0 < ({ base with sp := 16 } : State).sp.val ∧
    base.sp.val = 0 := by decide

theorem witness_CallThenReturnComesBack :
    let s := (put 0x2FFE { base with sp := 15 }).storeBytes 0xFFE [0x00, 0xEE]
    AboutToRun (.call 0xFFE) s ∧ s.sp.val < 16 ∧
    wordOfBytes (s.readByte 0xFFE) (s.readByte (0xFFE + 1)) = 0x00EE :=
  ⟨aboutToRun_of rfl rfl, by decide, by decide⟩

theorem witness_ImmediateSkipsCompareVx :
    (0x3FFF#16 &&& 0xF000 = 0x3000 ∧ 0x4FFF#16 &&& 0xF000 = 0x4000) ∧ Fetchable atTop ∧
    (regs [(10, 0x42)]).getV 10 = 0x42 ∧ (regs [(10, 0x42)]).getV 10 ≠ 0x43 :=
  ⟨by decide, fetchable_atTop, by decide, by decide⟩

theorem witness_RegisterSkipsCompareVxVy :
    (0x5FF0#16 &&& 0xF00F = 0x5000 ∧ 0x9FF0#16 &&& 0xF00F = 0x9000) ∧ Fetchable atTop ∧
    (regs [(1, 9), (2, 9)]).getV 1 = (regs [(1, 9), (2, 9)]).getV 2 ∧
    (regs [(1, 9), (2, 8)]).getV 1 ≠ (regs [(1, 9), (2, 8)]).getV 2 :=
  ⟨by decide, fetchable_atTop, by decide, by decide⟩

theorem witness_ClearScreenBlanksEveryPixel : 0x00E0#16 &&& 0xFFFF = 0x00E0 ∧ Fetchable atTop :=
  ⟨by decide, fetchable_atTop⟩

theorem witness_DrawXorsSpriteAndReportsCollision :
    (Instr.drw 0 1 15).wellFormed = true ∧ Fetchable atTop ∧
    (1 = 0 ∨ (base.setI 0xFFF).i.toNat + 1 - 1 ≤ 0xFFF) ∧ ¬SpriteCollides base 0 0 5 ∧
    SpriteCollides { base with fb := base.fb.setPixel 0 0 true } 0 0 5 :=
  ⟨by decide, fetchable_atTop, by decide, not_collides_blank 0 0 5,
    0, 0, ⟨0, 0, by decide, by decide, by decide, by decide, by decide⟩, by decide⟩

theorem witness_DrawingTwiceRestoresTheScreen :
    (0 : RegNum) ≠ VF ∧ (1 : RegNum) ≠ VF ∧
    ∃ t u, exec (.drw 0 1 5) base = .next t ∧ exec (.drw 0 1 5) t = .next u :=
  ⟨by decide, by decide, _, _, rfl, rfl⟩

theorem witness_AccessesBeyondMemoryFault :
    (0 < 2 ∧ 0xFFF < (base.setI 0xFFF).i.toNat + 2 - 1) ∧ 0xFFF < (base.setI 0xFFE).i.toNat + 2 ∧
    0xFFF < (base.setI 0xFFF).i.toNat + (1 : RegNum).val := by decide

theorem witness_KeySkipsAreComplements :
    let s := (regs [(3, 15), (4, 16)]).setKeys 0xFFFF
    Fetchable s ∧ ((s.getV 3).toNat ≤ 15 ∧ s.k.getLsbD (s.getV 3).toNat = true) ∧
    ¬((s.getV 4).toNat ≤ 15 ∧ s.k.getLsbD (s.getV 4).toNat = true) :=
  ⟨fetchable_of rfl, by decide, by decide⟩

theorem witness_ReadDelayTimerBeforeItsDecrement :
    0xFF07#16 &&& 0xF0FF = 0xF007 ∧ AboutToRun (.ldVxDt 15) (put 0xFF07 atTop) :=
  ⟨by decide, aboutToRun_of rfl rfl⟩
theorem witness_SetDelayTimerWritesDT :
    0xFF15#16 &&& 0xF0FF = 0xF015 ∧ AboutToRun (.ldDtVx 15) (put 0xFF15 atTop) :=
  ⟨by decide, aboutToRun_of rfl rfl⟩
theorem witness_SetSoundTimerWritesST : AboutToRun (.ldStVx 15) (put 0xFF18 atTop) := aboutToRun_of rfl rfl

theorem witness_KeyWaitStoresTheLowestKey :
    Fetchable (base.setKeys 0x8000) ∧ SomeKeyPressed (base.setKeys 0x8000) ∧
    SomeKeyPressed (base.setKeys 1) :=
  ⟨fetchable_of rfl, ⟨15, by decide, by decide⟩, 0, by decide, by decide⟩
theorem witness_KeyWaitBlocksWithoutKey :
    ¬SomeKeyPressed (put 0xF30A base) ∧ AboutToRun (.ldVxK 3) (put 0xF30A base) :=
  ⟨no_key_base, aboutToRun_of rfl rfl⟩

theorem witness_LoadIndexWritesI :
    0xAFFF#16 &&& 0xF000 = 0xA000 ∧ (Instr.ldI 0xFFF).wellFormed = true ∧ Fetchable atTop :=
  ⟨by decide, by decide, fetchable_atTop⟩
theorem witness_AddToIndexWrapsAt4096 : 0xFF1E#16 &&& 0xF0FF = 0xF01E ∧ Fetchable atTop :=
  ⟨by decide, fetchable_atTop⟩
theorem witness_GlyphAddressIsFiveTimesTheDigit : 0xFF29#16 &&& 0xF0FF = 0xF029 ∧ Fetchable atTop :=
  ⟨by decide, fetchable_atTop⟩
theorem witness_DecimalDigitsAreStoredAtI :
    Fetchable (base.setI 0xFFD) ∧ (base.setI 0xFFD).i.toNat + 2 ≤ 0xFFF :=
  ⟨fetchable_of rfl, by decide⟩
theorem witness_StoreRegistersWritesMemoryAtI :
    Fetchable (base.setI 0xFF0) ∧ (base.setI 0xFF0).i.toNat + (15 : RegNum).val ≤ 0xFFF :=
  ⟨fetchable_of rfl, by decide⟩
theorem witness_LoadRegistersReadsMemoryAtI :
    Fetchable (base.setI 0xFFF) ∧ (base.setI 0xFFF).i.toNat + (0 : RegNum).val ≤ 0xFFF :=
  ⟨fetchable_of rfl, by decide⟩

theorem witness_StoreThenLoadRoundTripsRegisters :
    ∃ t w, exec (.ldMemVx 15) (base.setI 0xFF0) = .next t ∧ t.i = (base.setI 0xFF0).i ∧
      exec (.ldVxMem 15) t = .next w :=
  ⟨_, _, rfl, rfl, rfl⟩

/-- `s` over another font, its memory reading as before: byte 0 of the font differs and is listed. -/
def overOtherFont (s : State) : State :=
  { s with font := defaultFont.set 0 0xAA, mem := (0, 0xF0) :: s.mem }

theorem background_overOtherFont {a : Nat} (h : a ≠ 0) :
    Memory.background (defaultFont.set 0 0xAA) a = Memory.background defaultFont a := by
  unfold Memory.background
  split
  · exact Vector.getElem_set_ne _ _ (Ne.symm h)
  · rfl

theorem witness_FontReachesAProgramOnlyThroughMemory :
    (SameExcept [.font] (put 0x6A7F base) (overOtherFont (put 0x6A7F base)) ∧
      ∃ t, step (put 0x6A7F base) = .next t) ∧
    SameExcept [.font] base (overOtherFont base) ∧ step base = .fault .unknownOpcode := by
  have same : ∀ s, (∀ a, (overOtherFont s).readByte a = s.readByte a) →
      SameExcept [.font] s (overOtherFont s) := by
    intro s hm p hp
    cases p <;> simp_all [SamePart, overOtherFont, State.getV]
  refine ⟨⟨same _ fun a => ?_, _, rfl⟩, same _ fun a => ?_, rfl⟩
  · show Memory.read (defaultFont.set 0 0xAA) [(0, 0xF0), (0x200, 0x6A), (0x201, 0x7F)] a =
      Memory.read defaultFont [(0x200, 0x6A), (0x201, 0x7F)] a
    by_cases h : a = 0
    · subst h; decide
    · simp only [Memory.read, h, if_false, background_overOtherFont h]
  · show Memory.read (defaultFont.set 0 0xAA) [(0, 0xF0)] a = Memory.read defaultFont [] a
    by_cases h : a = 0
    · subst h; decide
    · simp only [Memory.read, h, if_false, background_overOtherFont h]

end Sys2Proof.Tests
end

section
/-! The instruction fields as masks and shifts (rule R46). -/

namespace Sys2Proof

/-- Mask before shift: where shifting `mask` right by `lo` leaves exactly `len` ones, masking a word and
then shifting it is taking its `len` bits from `lo` on. What the mask holds below `lo` is shifted out. -/
theorem toNat_extractLsb'_eq_masked_shifted {n : Nat} (w mask : BitVec n) (lo len : Nat)
    (hmask : mask.toNat >>> lo = 2 ^ len - 1) :
    (w.extractLsb' lo len).toNat = (w &&& mask).toNat >>> lo := by
  calc (w.extractLsb' lo len).toNat
      = (w.toNat >>> lo) % 2 ^ len := BitVec.extractLsb'_toNat ..
    _ = (w.toNat >>> lo) &&& (mask.toNat >>> lo) := by rw [hmask, Nat.and_two_pow_sub_one_eq_mod]
    _ = (w &&& mask).toNat >>> lo := by rw [BitVec.toNat_and, Nat.shiftRight_and_distrib]

/-- Settles O2: each field is one extraction, and its mask shifted to bit 0 is all ones of the field's
width. `N`, `NN` and `NNN` start at bit 0, where the shift is by 0. -/
theorem fieldsAreMaskedThenShifted : Obligations.FieldsAreMaskedThenShifted := by
  intro w
  refine ⟨?g, ?x, ?y, ?n, ?nn, ?nnn⟩
  case g => exact toNat_extractLsb'_eq_masked_shifted w 0xF000#16 12 4 (by decide)
  case x => exact toNat_extractLsb'_eq_masked_shifted w 0x0F00#16 8 4 (by decide)
  case y => exact toNat_extractLsb'_eq_masked_shifted w 0x00F0#16 4 4 (by decide)
  case n => exact toNat_extractLsb'_eq_masked_shifted w 0x000F#16 0 4 (by decide)
  case nn => exact toNat_extractLsb'_eq_masked_shifted w 0x00FF#16 0 8 (by decide)
  case nnn => exact toNat_extractLsb'_eq_masked_shifted w 0x0FFF#16 0 12 (by decide)

end Sys2Proof
end

section
/-! Opcode-map rows read as fields: what a row's match says about the fields its mask covers, and what
the decoder does in the groups `0x6`, `0x7` and `0x8` (rules R49, R50). -/

namespace Sys2Proof

/-- A field all of whose bits the mask keeps is the match's field. -/
theorem extractLsb'_of_and_eq {n : Nat} {w mask mtch : BitVec n} {lo len : Nat}
    (hrow : w &&& mask = mtch) (hmask : mask.extractLsb' lo len = BitVec.allOnes len) :
    w.extractLsb' lo len = mtch.extractLsb' lo len := by
  rw [← hrow, BitVec.extractLsb'_and, hmask, BitVec.and_allOnes]

theorem fieldG_of_and_eq {w mask mtch : Word} (hrow : w &&& mask = mtch)
    (hmask : mask.extractLsb' 12 4 = BitVec.allOnes 4) : fieldG w = fieldG mtch :=
  congrArg BitVec.toNat (extractLsb'_of_and_eq hrow hmask)

theorem fieldN_of_and_eq {w mask mtch : Word} (hrow : w &&& mask = mtch)
    (hmask : mask.extractLsb' 0 4 = BitVec.allOnes 4) : fieldN w = fieldN mtch :=
  congrArg BitVec.toNat (extractLsb'_of_and_eq hrow hmask)

theorem decodeWord_of_group6 {w : Word} (hg : fieldG w = 0x6) :
    decodeWord w = .ok (.ldImm (fieldX w) (fieldNN w)) := by
  simp only [decodeWord, hg]

theorem decodeWord_of_group7 {w : Word} (hg : fieldG w = 0x7) :
    decodeWord w = .ok (.addImm (fieldX w) (fieldNN w)) := by
  simp only [decodeWord, hg]

theorem decodeWord_of_group8 {w : Word} (hg : fieldG w = 0x8) :
    decodeWord w = decodeGroup8 (fieldX w) (fieldY w) (fieldN w) := by
  simp only [decodeWord, hg]

/-- A row of group `0x8` fixes the group and the bottom nibble, so its match alone picks the
sub-operation. -/
theorem decodeWord_of_row8 {w mtch : Word} (hrow : w &&& 0xF00F#16 = mtch) (hg : fieldG mtch = 0x8) :
    decodeWord w = decodeGroup8 (fieldX w) (fieldY w) (fieldN mtch) := by
  rw [decodeWord_of_group8 ((fieldG_of_and_eq hrow (by decide)).trans hg),
    fieldN_of_and_eq hrow (by decide)]

end Sys2Proof
end

section
/-! Instructions whose whole effect is one register write and the advance of `pc` (rules R63, R71 to
R76). -/

namespace Sys2Proof.Machine

/-! ## The meanings -/

theorem exec_ldImm (x : RegNum) (nn : Byte) (s : State) :
    exec (.ldImm x nn) s = .next (s.setV x nn).advance := rfl

theorem exec_addImm (x : RegNum) (nn : Byte) (s : State) :
    exec (.addImm x nn) s = .next (s.setV x (s.getV x + nn)).advance := rfl

theorem exec_ldReg (x y : RegNum) (s : State) :
    exec (.ldReg x y) s = .next (s.setV x (s.getV y)).advance := rfl

theorem exec_orReg (x y : RegNum) (s : State) :
    exec (.orReg x y) s = .next (s.setV x (s.getV x ||| s.getV y)).advance := rfl

theorem exec_andReg (x y : RegNum) (s : State) :
    exec (.andReg x y) s = .next (s.setV x (s.getV x &&& s.getV y)).advance := rfl

theorem exec_xorReg (x y : RegNum) (s : State) :
    exec (.xorReg x y) s = .next (s.setV x (s.getV x ^^^ s.getV y)).advance := rfl

/-! ## The frame of a register write followed by the advance -/

theorem sameRegsExcept_setV_advance (s : State) (x : RegNum) (b : Byte) :
    SameRegsExcept [x] s (s.setV x b).advance := by
  intro r hr
  rw [State.advance_getV, State.getV_setV_ne s b (List.ne_of_not_mem_cons hr)]

theorem sameExcept_setV_advance (s : State) (x : RegNum) (b : Byte) :
    SameExcept [.v, .pc] s (s.setV x b).advance := by
  intro p hp
  cases p
  case v => exact absurd (by simp) hp
  case pc => exact absurd (by simp) hp
  all_goals simp [SamePart]

theorem onlyVxChanged_setV_advance (s : State) (x : RegNum) (b : Byte) :
    OnlyVxChanged x s (s.setV x b).advance :=
  ⟨sameRegsExcept_setV_advance s x b, sameExcept_setV_advance s x b⟩

theorem advanced_setV_advance {s : State} (hf : Fetchable s) (x : RegNum) (b : Byte) :
    Advanced s (s.setV x b).advance :=
  toNat_pc_add_two hf

/-- What an instruction does that only writes `b` to `V[x]` and advances: the shared conclusion of
R71 to R76. -/
theorem writesVx_of_exec_eq {i : Instr} {s : State} {x : RegNum} {b : Byte} (hf : Fetchable s)
    (he : exec i s = .next (s.setV x b).advance) :
    ∃ t, exec i s = .next t ∧ t.getV x = b ∧ OnlyVxChanged x s t ∧ Advanced s t :=
  ⟨_, he, State.getV_setV_same s x b, onlyVxChanged_setV_advance s x b, advanced_setV_advance hf x b⟩

/-- The same, with the written byte described bit by bit. -/
theorem writesVxBits_of_exec_eq {i : Instr} {s : State} {x : RegNum} {b : Byte} {bit : Nat → Bool}
    (hf : Fetchable s) (he : exec i s = .next (s.setV x b).advance) (hbit : ∀ k, b.getLsbD k = bit k) :
    ∃ t, exec i s = .next t ∧ OnlyVxChanged x s t ∧ Advanced s t ∧ ∀ k, (t.getV x).getLsbD k = bit k := by
  obtain ⟨t, ht, hval, honly, hadv⟩ := writesVx_of_exec_eq hf he
  exact ⟨t, ht, honly, hadv, hval ▸ hbit⟩

/-! ## The statements -/

/-- Settles O26: the mask `0xF000` fixes group `0x6`, and the meaning is one register write. -/
theorem loadImmediateWritesVx : Obligations.LoadImmediateWritesVx := by
  refine ⟨fun w hrow => ?row, fun x nn s hf => ?effect⟩
  case row => exact decodeWord_of_group6 (fieldG_of_and_eq hrow (by decide))
  case effect => exact writesVx_of_exec_eq hf (exec_ldImm x nn s)

/-- Settles O27: the byte written is the sum of two bytes, which is the sum of the naturals
modulo 256. -/
theorem addImmediateWrapsWithoutFlag : Obligations.AddImmediateWrapsWithoutFlag := by
  refine ⟨fun w hrow => ?row, fun x nn s hf => ?effect⟩
  case row => exact decodeWord_of_group7 (fieldG_of_and_eq hrow (by decide))
  case effect =>
    obtain ⟨t, he, hval, honly, hadv⟩ := writesVx_of_exec_eq hf (exec_addImm x nn s)
    exact ⟨t, he, by rw [hval, BitVec.toNat_add], honly, hadv⟩

/-- Settles O28: the mask `0xF00F` fixes group `0x8` and sub-operation 0, and the meaning is one
register write. -/
theorem copyRegisterWritesVx : Obligations.CopyRegisterWritesVx := by
  refine ⟨fun w hrow => ?row, fun x y s hf => ?effect⟩
  case row => exact decodeWord_of_row8 hrow (by decide)
  case effect => exact writesVx_of_exec_eq hf (exec_ldReg x y s)

/-- Settles O29: each operation is one register write, of a byte whose bits the library gives. -/
theorem bitwiseOperationsWriteVxOnly : Obligations.BitwiseOperationsWriteVxOnly := by
  refine ⟨fun w hrow => ?orRow, fun w hrow => ?andRow, fun w hrow => ?xorRow,
    fun x y s hf => ⟨?orEffect, ?andEffect, ?xorEffect⟩⟩
  case orRow => exact decodeWord_of_row8 hrow (by decide)
  case andRow => exact decodeWord_of_row8 hrow (by decide)
  case xorRow => exact decodeWord_of_row8 hrow (by decide)
  case orEffect => exact writesVxBits_of_exec_eq hf (exec_orReg x y s) fun _ => BitVec.getLsbD_or
  case andEffect => exact writesVxBits_of_exec_eq hf (exec_andReg x y s) fun _ => BitVec.getLsbD_and
  case xorEffect => exact writesVxBits_of_exec_eq hf (exec_xorReg x y s) fun _ => BitVec.getLsbD_xor

end Sys2Proof.Machine
end

section
/-! What the decoder does in the groups `0x1`, `0x3` and `0x4` (rule R49). -/

namespace Sys2Proof

theorem decodeWord_of_group1 {w : Word} (hg : fieldG w = 0x1) :
    decodeWord w = .ok (.jp (fieldNNN w)) := by
  simp only [decodeWord, hg]

theorem decodeWord_of_group3 {w : Word} (hg : fieldG w = 0x3) :
    decodeWord w = .ok (.seImm (fieldX w) (fieldNN w)) := by
  simp only [decodeWord, hg]

theorem decodeWord_of_group4 {w : Word} (hg : fieldG w = 0x4) :
    decodeWord w = .ok (.sneImm (fieldX w) (fieldNN w)) := by
  simp only [decodeWord, hg]

end Sys2Proof
end

section
/-! Instructions whose whole effect is a new `pc`: jumps (rule R87) and skips (rules R85 a, R90, R91). -/

namespace Sys2Proof.Machine

/-! ## The meanings -/

theorem exec_jp (nnn : Nat) (s : State) : exec (.jp nnn) s = .next (s.setPc (immAddress nnn)) := rfl

theorem exec_seImm (x : RegNum) (nn : Byte) (s : State) :
    exec (.seImm x nn) s = .next (s.skipIf (decide (s.getV x = nn))) := rfl

theorem exec_sneImm (x : RegNum) (nn : Byte) (s : State) :
    exec (.sneImm x nn) s = .next (s.skipIf (decide (s.getV x ≠ nn))) := rfl

/-! ## The new `pc` and its frame -/

/-- A 12-bit address loses nothing in 16 bits (rule R48). -/
theorem toNat_immAddress {nnn : Nat} (h : nnn ≤ 0xFFF) : (immAddress nnn).toNat = nnn := by
  rw [immAddress, BitVec.toNat_ofNat, Nat.mod_eq_of_lt (by omega)]

theorem sameExcept_setPc (s : State) (target : Word) : SameExcept [.pc] s (s.setPc target) := by
  intro p hp
  cases p
  case pc => exact absurd (by simp) hp
  all_goals simp [SamePart]

theorem State.skipIf_eq_setPc (s : State) (b : Bool) :
    s.skipIf b = s.setPc (if b then s.pc + 4 else s.pc + 2) := rfl

theorem sameExcept_skipIf (s : State) (b : Bool) : SameExcept [.pc] s (s.skipIf b) := by
  rw [State.skipIf_eq_setPc]
  exact sameExcept_setPc s _

/-- After a fetch neither distance of a skip wraps the 16 bits of `pc`. -/
theorem skippedIff_skipIf {s : State} {b : Bool} {c : Prop} (hf : Fetchable s) (hb : b = true ↔ c) :
    SkippedIff c s (s.skipIf b) := by
  refine ⟨fun hc => ?skip, fun hc => ?noSkip⟩
  case skip => rw [State.skipIf_pc, if_pos (hb.2 hc), toNat_pc_add_four hf]
  case noSkip => rw [State.skipIf_pc, if_neg (mt hb.1 hc), toNat_pc_add_two hf]

/-- What an instruction does that only skips on a condition `b` decides: the shared conclusion of the
conditional skips. -/
theorem skips_of_exec_eq {i : Instr} {s : State} {b : Bool} {c : Prop} (hf : Fetchable s)
    (he : exec i s = .next (s.skipIf b)) (hb : b = true ↔ c) :
    ∃ t, exec i s = .next t ∧ SkippedIff c s t ∧ SameExcept [.pc] s t :=
  ⟨_, he, skippedIff_skipIf hf hb, sameExcept_skipIf s b⟩

/-! ## The statements -/

/-- Settles O34: the mask `0xF000` fixes group `0x1`, and the 12-bit target fits `pc`. -/
theorem jumpSetsPc : Obligations.JumpSetsPc := by
  refine ⟨fun w hrow => ?row, fun nnn s hwf => ?effect⟩
  case row => exact decodeWord_of_group1 (fieldG_of_and_eq hrow (by decide))
  case effect =>
    have hfits : nnn ≤ 0xFFF := of_decide_eq_true hwf
    exact ⟨_, exec_jp nnn s, toNat_immAddress hfits, sameExcept_setPc s _⟩

/-- Settles O39: the masks fix groups `0x3` and `0x4`, and each meaning is one skip on the decided
comparison. -/
theorem immediateSkipsCompareVx : Obligations.ImmediateSkipsCompareVx := by
  refine ⟨fun w hrow => ?seRow, fun w hrow => ?sneRow, fun x nn s hf => ⟨?seEffect, ?sneEffect⟩⟩
  case seRow => exact decodeWord_of_group3 (fieldG_of_and_eq hrow (by decide))
  case sneRow => exact decodeWord_of_group4 (fieldG_of_and_eq hrow (by decide))
  case seEffect => exact skips_of_exec_eq hf (exec_seImm x nn s) decide_eq_true_iff
  case sneEffect => exact skips_of_exec_eq hf (exec_sneImm x nn s) decide_eq_true_iff

end Sys2Proof.Machine
end

section
/-! Opcode-map rows of one word: the mask `0xFFFF` keeps every bit (rule R50). -/

namespace Sys2Proof

theorem eq_of_and_fullMask_eq {w mtch : Word} (hrow : w &&& 0xFFFF#16 = mtch) : w = mtch := by
  have hmask : (0xFFFF#16 : Word) = BitVec.allOnes 16 := rfl
  rwa [hmask, BitVec.and_allOnes] at hrow

theorem decodeWord_clsWord : decodeWord 0x00E0#16 = .ok .cls := by decide

end Sys2Proof
end

section
/-! Replacing the whole framebuffer and advancing `pc`: the effect of `00E0` (rules R22, R63, R96). -/

namespace Sys2Proof.Machine

theorem exec_cls (s : State) : exec .cls s = .next (s.setFb Framebuffer.blank).advance := rfl

theorem sameExcept_setFb_advance (s : State) (fb : Framebuffer) :
    SameExcept [.fb, .needsRedraw, .pc] s (s.setFb fb).advance := by
  intro p hp
  cases p
  case fb => exact absurd (by simp) hp
  case needsRedraw => exact absurd (by simp) hp
  case pc => exact absurd (by simp) hp
  all_goals simp [SamePart]

theorem advanced_setFb_advance {s : State} (hf : Fetchable s) (fb : Framebuffer) :
    Advanced s (s.setFb fb).advance :=
  toNat_pc_add_two hf

/-- Settles O41: the full mask leaves one word, and the meaning writes the blank framebuffer, which
sets `needsRedraw` whatever was on the screen. -/
theorem clearScreenBlanksEveryPixel : Obligations.ClearScreenBlanksEveryPixel := by
  refine ⟨fun w hrow => ?row, fun s hf => ⟨_, exec_cls s, ?pixels, ?redraw, ?frame, ?pc⟩⟩
  case row => exact eq_of_and_fullMask_eq hrow ▸ decodeWord_clsWord
  case pixels =>
    intro x y
    rw [State.advance_fb, State.setFb_fb, Framebuffer.pixel_blank]
  case redraw => rw [State.advance_needsRedraw, State.setFb_needsRedraw]
  case frame => exact sameExcept_setFb_advance s Framebuffer.blank
  case pc => exact advanced_setFb_advance hf Framebuffer.blank

end Sys2Proof.Machine
end

section
/-! What the decoder does in the groups `0xA` and `0xF` (rules R49, R50). -/

namespace Sys2Proof

theorem fieldNN_of_and_eq {w mask mtch : Word} (hrow : w &&& mask = mtch)
    (hmask : mask.extractLsb' 0 8 = BitVec.allOnes 8) : fieldNN w = fieldNN mtch :=
  extractLsb'_of_and_eq hrow hmask

theorem decodeWord_of_groupA {w : Word} (hg : fieldG w = 0xA) :
    decodeWord w = .ok (.ldI (fieldNNN w)) := by
  simp only [decodeWord, hg]

theorem decodeWord_of_groupF {w : Word} (hg : fieldG w = 0xF) :
    decodeWord w = decodeGroupF (fieldX w) (fieldNN w) := by
  simp only [decodeWord, hg]

/-- A row of group `0xF` fixes the group and the bottom byte, so its match alone picks the
sub-operation. -/
theorem decodeWord_of_rowF {w mtch : Word} (hrow : w &&& 0xF0FF#16 = mtch) (hg : fieldG mtch = 0xF) :
    decodeWord w = decodeGroupF (fieldX w) (fieldNN mtch) := by
  rw [decodeWord_of_groupF ((fieldG_of_and_eq hrow (by decide)).trans hg),
    fieldNN_of_and_eq hrow (by decide)]

end Sys2Proof
end

section
/-! Instructions whose whole effect is a new `I` and the advance of `pc` (rules R63, R111 to R113). -/

namespace Sys2Proof.Machine

/-! ## The meanings -/

theorem exec_ldI (nnn : Nat) (s : State) :
    exec (.ldI nnn) s = .next (s.setI (immAddress nnn)).advance := rfl

theorem exec_addI (x : RegNum) (s : State) :
    exec (.addI x) s = .next (s.setI (indexSum s.i (s.getV x))).advance := rfl

theorem exec_ldF (x : RegNum) (s : State) :
    exec (.ldF x) s = .next (s.setI (glyphAddress (s.getV x))).advance := rfl

/-! ## The new index as a natural -/

/-- The sum is reduced modulo 4096 before it is held, so 16 bits lose nothing of it (rule R112). -/
theorem toNat_indexSum (i : Word) (b : Byte) :
    (indexSum i b).toNat = (i.toNat + b.toNat) % 4096 := by
  have hlt : (i.toNat + b.toNat) % 4096 < 4096 := Nat.mod_lt _ (by decide)
  rw [indexSum, BitVec.toNat_ofNat, Nat.mod_eq_of_lt (by omega)]

/-- The mask `0xF` is the remainder by 16, and the last glyph starts at 75 (rules R113, R141). -/
theorem toNat_glyphAddress (b : Byte) : (glyphAddress b).toNat = b.toNat % 16 * 5 := by
  have hdigit : (b &&& 0xF#8).toNat = b.toNat % 16 :=
    (BitVec.toNat_and ..).trans (Nat.and_two_pow_sub_one_eq_mod b.toNat 4)
  rw [glyphAddress, BitVec.toNat_ofNat, hdigit, Config.glyphStride, Nat.mod_eq_of_lt (by omega)]

/-! ## The frame of an index write followed by the advance -/

theorem sameExcept_setI_advance (s : State) (w : Word) :
    SameExcept [.i, .pc] s (s.setI w).advance := by
  intro p hp
  cases p
  case i => exact absurd (by simp) hp
  case pc => exact absurd (by simp) hp
  all_goals simp [SamePart]

theorem advanced_setI_advance {s : State} (hf : Fetchable s) (w : Word) :
    Advanced s (s.setI w).advance :=
  toNat_pc_add_two hf

/-- What an instruction does that only writes `w`, as a natural `a`, to `I` and advances: the shared
conclusion of R111 to R113. -/
theorem writesIndex_of_exec_eq {ins : Instr} {s : State} {w : Word} {a : Nat} (hf : Fetchable s)
    (he : exec ins s = .next (s.setI w).advance) (hw : w.toNat = a) :
    ∃ t, exec ins s = .next t ∧ t.i.toNat = a ∧ SameExcept [.i, .pc] s t ∧ Advanced s t := by
  refine ⟨_, he, ?index, sameExcept_setI_advance s w, advanced_setI_advance hf w⟩
  case index => rw [State.advance_i, State.setI_i, hw]

/-! ## The statements -/

/-- Settles O51: the mask `0xF000` fixes group `0xA`, and the meaning is one index write of a 12-bit
address. -/
theorem loadIndexWritesI : Obligations.LoadIndexWritesI := by
  refine ⟨fun w hrow => ?row, fun nnn s hwf hf => ?effect⟩
  case row => exact decodeWord_of_groupA (fieldG_of_and_eq hrow (by decide))
  case effect =>
    have hfits : nnn ≤ 0xFFF := of_decide_eq_true hwf
    exact writesIndex_of_exec_eq hf (exec_ldI nnn s) (toNat_immAddress hfits)

/-- Settles O52: the mask `0xF0FF` fixes group `0xF` and bottom byte `0x1E`, and the meaning is one
index write of the reduced sum. -/
theorem addToIndexWrapsAt4096 : Obligations.AddToIndexWrapsAt4096 := by
  refine ⟨fun w hrow => ?row, fun x s hf => ?effect⟩
  case row => exact decodeWord_of_rowF hrow (by decide)
  case effect => exact writesIndex_of_exec_eq hf (exec_addI x s) (toNat_indexSum s.i (s.getV x))

/-- Settles O53: the mask `0xF0FF` fixes group `0xF` and bottom byte `0x29`, and the meaning is one
index write of the glyph's address. -/
theorem glyphAddressIsFiveTimesTheDigit : Obligations.GlyphAddressIsFiveTimesTheDigit := by
  refine ⟨fun w hrow => ?row, fun x s hf => ?effect⟩
  case row => exact decodeWord_of_rowF hrow (by decide)
  case effect => exact writesIndex_of_exec_eq hf (exec_ldF x s) (toNat_glyphAddress (s.getV x))

end Sys2Proof.Machine
end

section
/-! What `RESET` leaves (rules R24, R140): memory read against the font, and the vectors of zeros read
one entry at a time. -/

namespace Sys2Proof.Machine

/-! ## The background of memory -/

theorem Memory.background_of_lt (font : Font) {a : Nat} (h : a < 80) :
    Memory.background font a = font[a] :=
  dif_pos h

theorem Memory.background_of_ge (font : Font) {a : Nat} (h : 80 ≤ a) : Memory.background font a = 0 :=
  dif_neg (Nat.not_lt.2 h)

/-! ## Entries after `RESET` -/

@[simp] theorem operate_reset (s : State) :
    operate .reset s = ⟨State.resetWith s.font, .ok, false⟩ := rfl

@[simp] theorem State.resetWith_getV (font : Font) (r : RegNum) : (State.resetWith font).getV r = 0 := by
  rw [State.getV, State.resetWith_v, Fin.getElem_fin, Vector.getElem_replicate]

theorem State.resetWith_stack_getElem (font : Font) (j : Fin 16) :
    (State.resetWith font).stack[j] = 0 := by
  rw [Fin.getElem_fin, State.resetWith_stack, Vector.getElem_replicate]

theorem State.resetWith_fb_eq_blank (font : Font) : (State.resetWith font).fb = Framebuffer.blank := rfl

theorem State.resetWith_toneActive (font : Font) : (State.resetWith font).toneActive = false := by
  rw [State.toneActive, State.resetWith_st]
  rfl

/-! ## The statement -/

/-- Settles O23: `RESET` ends in `State.resetWith` of the machine's own `FONT`. Its memory lists no byte,
so a read is the background; the framebuffer is the blank one; the tone is off because `ST` is 0. -/
theorem resetLeavesTheseValues : Obligations.ResetLeavesTheseValues := by
  intro s
  refine ⟨State.resetWith s.font, operate_reset s, ?font, ?zeros, State.resetWith_getV s.font,
    State.resetWith_i s.font, State.resetWith_pc s.font, State.resetWith_stack_getElem s.font,
    State.resetWith_sp s.font, State.resetWith_dt s.font, State.resetWith_st s.font, ?pixels, ?keys,
    State.resetWith_needsRedraw s.font, State.resetWith_blockedOnKey s.font,
    State.resetWith_toneActive s.font⟩
  case font =>
    intro a ha
    rw [State.resetWith_readByte, Memory.background_of_lt s.font ha]
  case zeros =>
    intro a hlow _
    rw [State.resetWith_readByte, Memory.background_of_ge s.font hlow]
  case pixels =>
    intro x y
    rw [State.resetWith_fb_eq_blank, Framebuffer.pixel_blank]
  case keys =>
    intro c _
    rw [State.resetWith_k]
    exact BitVec.getLsbD_zero

end Sys2Proof.Machine
end

section
/-! What the decoder does in the remaining groups, and in every row of the opcode map (rules R49 to
R51). -/

namespace Sys2Proof

/-! ## The groups -/

theorem decodeWord_of_group2 {w : Word} (hg : fieldG w = 0x2) :
    decodeWord w = .ok (.call (fieldNNN w)) := by
  simp only [decodeWord, hg]

theorem decodeWord_of_group5 {w : Word} (hg : fieldG w = 0x5) (hn : fieldN w = 0x0) :
    decodeWord w = .ok (.seReg (fieldX w) (fieldY w)) := by
  simp only [decodeWord, hg, hn, if_true]

theorem decodeWord_of_group9 {w : Word} (hg : fieldG w = 0x9) (hn : fieldN w = 0x0) :
    decodeWord w = .ok (.sneReg (fieldX w) (fieldY w)) := by
  simp only [decodeWord, hg, hn, if_true]

theorem decodeWord_of_groupB {w : Word} (hg : fieldG w = 0xB) :
    decodeWord w = .ok (.jpV0 (fieldNNN w)) := by
  simp only [decodeWord, hg]

theorem decodeWord_of_groupC {w : Word} (hg : fieldG w = 0xC) :
    decodeWord w = .ok (.rnd (fieldX w) (fieldNN w)) := by
  simp only [decodeWord, hg]

theorem decodeWord_of_groupD {w : Word} (hg : fieldG w = 0xD) :
    decodeWord w = .ok (.drw (fieldX w) (fieldY w) (fieldN w)) := by
  simp only [decodeWord, hg]

theorem decodeWord_of_groupE {w : Word} (hg : fieldG w = 0xE) :
    decodeWord w = decodeGroupE (fieldX w) (fieldNN w) := by
  simp only [decodeWord, hg]

theorem decodeWord_retWord : decodeWord 0x00EE#16 = .ok .ret := by decide

/-! ## The rows -/

theorem rowDecodes_seReg : Machine.RowDecodes 0xF00F 0x5000 fun w => .seReg (fieldX w) (fieldY w) :=
  fun _ hrow => decodeWord_of_group5 (fieldG_of_and_eq hrow (by decide)) (fieldN_of_and_eq hrow (by decide))

theorem rowDecodes_sneReg : Machine.RowDecodes 0xF00F 0x9000 fun w => .sneReg (fieldX w) (fieldY w) :=
  fun _ hrow => decodeWord_of_group9 (fieldG_of_and_eq hrow (by decide)) (fieldN_of_and_eq hrow (by decide))

/-- A row of group `0xE` fixes the group and the bottom byte, so its match alone picks the
sub-operation. -/
theorem decodeWord_of_rowE {w mtch : Word} (hrow : w &&& 0xF0FF#16 = mtch) (hg : fieldG mtch = 0xE) :
    decodeWord w = decodeGroupE (fieldX w) (fieldNN mtch) := by
  rw [decodeWord_of_groupE ((fieldG_of_and_eq hrow (by decide)).trans hg),
    fieldNN_of_and_eq hrow (by decide)]

/-- A word that selects an instruction's row decodes to an instruction of that row: the row's mask
covers the group and the sub-operation, which are all the decoder branches on. -/
theorem decodeWord_of_selectsRow {w : Word} (i : Instr) (h : selectsRow w (opcodeRow i)) :
    ∃ j, decodeWord w = .ok j ∧ opcodeRow j = opcodeRow i := by
  cases i with dsimp only [selectsRow, opcodeRow] at h
  | cls => exact ⟨.cls, eq_of_and_fullMask_eq h ▸ decodeWord_clsWord, rfl⟩
  | ret => exact ⟨.ret, eq_of_and_fullMask_eq h ▸ decodeWord_retWord, rfl⟩
  | jp => exact ⟨_, decodeWord_of_group1 (fieldG_of_and_eq h (by decide)), rfl⟩
  | call => exact ⟨_, decodeWord_of_group2 (fieldG_of_and_eq h (by decide)), rfl⟩
  | seImm => exact ⟨_, decodeWord_of_group3 (fieldG_of_and_eq h (by decide)), rfl⟩
  | sneImm => exact ⟨_, decodeWord_of_group4 (fieldG_of_and_eq h (by decide)), rfl⟩
  | seReg => exact ⟨_, rowDecodes_seReg w h, rfl⟩
  | ldImm => exact ⟨_, decodeWord_of_group6 (fieldG_of_and_eq h (by decide)), rfl⟩
  | addImm => exact ⟨_, decodeWord_of_group7 (fieldG_of_and_eq h (by decide)), rfl⟩
  | ldReg | orReg | andReg | xorReg | addReg | sub | shr | subn | shl =>
    exact ⟨_, decodeWord_of_row8 h (by decide), rfl⟩
  | sneReg => exact ⟨_, rowDecodes_sneReg w h, rfl⟩
  | ldI => exact ⟨_, decodeWord_of_groupA (fieldG_of_and_eq h (by decide)), rfl⟩
  | jpV0 => exact ⟨_, decodeWord_of_groupB (fieldG_of_and_eq h (by decide)), rfl⟩
  | rnd => exact ⟨_, decodeWord_of_groupC (fieldG_of_and_eq h (by decide)), rfl⟩
  | drw => exact ⟨_, decodeWord_of_groupD (fieldG_of_and_eq h (by decide)), rfl⟩
  | skp | sknp => exact ⟨_, decodeWord_of_rowE h (by decide), rfl⟩
  | ldVxDt | ldVxK | ldDtVx | ldStVx | addI | ldF | ldB | ldMemVx | ldVxMem =>
    exact ⟨_, decodeWord_of_rowF h (by decide), rfl⟩

end Sys2Proof
end

section
/-! Decoding undoes encoding: the fields of a formatted word are its operands (rules R46, R47, R49). -/

namespace Sys2Proof

theorem decodeWord_wordXYN8 (x y : RegNum) {n : Nat} (hn : n ≤ 15) :
    decodeWord (wordXYN 0x8#4 x y n) = decodeGroup8 x y n := by
  rw [decodeWord_of_group8 (fieldG_wordXYN ..), fieldX_wordXYN, fieldY_wordXYN, fieldN_wordXYN _ _ _ hn]

theorem decodeWord_wordXNNE (x : RegNum) (nn : Byte) :
    decodeWord (wordXNN 0xE#4 x nn) = decodeGroupE x nn := by
  rw [decodeWord_of_groupE (fieldG_wordXNN ..), fieldX_wordXNN, fieldNN_wordXNN]

theorem decodeWord_wordXNNF (x : RegNum) (nn : Byte) :
    decodeWord (wordXNN 0xF#4 x nn) = decodeGroupF x nn := by
  rw [decodeWord_of_groupF (fieldG_wordXNN ..), fieldX_wordXNN, fieldNN_wordXNN]

/-- One arm per instruction: its group, then the operands read back from their fields. -/
theorem decodeWord_encode (i : Instr) (hwf : i.wellFormed = true) : decodeWord (encode i) = .ok i := by
  cases i with
  | cls => exact decodeWord_clsWord
  | ret => exact decodeWord_retWord
  | jp => rw [encode, decodeWord_of_group1 (fieldG_wordNNN ..), fieldNNN_wordNNN _ (of_decide_eq_true hwf)]
  | call => rw [encode, decodeWord_of_group2 (fieldG_wordNNN ..), fieldNNN_wordNNN _ (of_decide_eq_true hwf)]
  | seImm => rw [encode, decodeWord_of_group3 (fieldG_wordXNN ..), fieldX_wordXNN, fieldNN_wordXNN]
  | sneImm => rw [encode, decodeWord_of_group4 (fieldG_wordXNN ..), fieldX_wordXNN, fieldNN_wordXNN]
  | seReg =>
    rw [encode, decodeWord_of_group5 (fieldG_wordXYN ..) (fieldN_wordXYN _ _ _ (by decide)),
      fieldX_wordXYN, fieldY_wordXYN]
  | ldImm => rw [encode, decodeWord_of_group6 (fieldG_wordXNN ..), fieldX_wordXNN, fieldNN_wordXNN]
  | addImm => rw [encode, decodeWord_of_group7 (fieldG_wordXNN ..), fieldX_wordXNN, fieldNN_wordXNN]
  | ldReg x y | orReg x y | andReg x y | xorReg x y | addReg x y | sub x y | shr x y | subn x y | shl x y =>
    exact decodeWord_wordXYN8 x y (by decide)
  | sneReg =>
    rw [encode, decodeWord_of_group9 (fieldG_wordXYN ..) (fieldN_wordXYN _ _ _ (by decide)),
      fieldX_wordXYN, fieldY_wordXYN]
  | ldI => rw [encode, decodeWord_of_groupA (fieldG_wordNNN ..), fieldNNN_wordNNN _ (of_decide_eq_true hwf)]
  | jpV0 => rw [encode, decodeWord_of_groupB (fieldG_wordNNN ..), fieldNNN_wordNNN _ (of_decide_eq_true hwf)]
  | rnd => rw [encode, decodeWord_of_groupC (fieldG_wordXNN ..), fieldX_wordXNN, fieldNN_wordXNN]
  | drw =>
    rw [encode, decodeWord_of_groupD (fieldG_wordXYN ..), fieldX_wordXYN, fieldY_wordXYN,
      fieldN_wordXYN _ _ _ (of_decide_eq_true hwf)]
  | skp x | sknp x => exact decodeWord_wordXNNE x _
  | ldVxDt x | ldVxK x | ldDtVx x | ldStVx x | addI x | ldF x | ldB x | ldMemVx x | ldVxMem x =>
    exact decodeWord_wordXNNF x _

/-- Settles O3: over words by the fields of the encoded word, and over bytes because the two bytes of
a word make the word again. -/
theorem decodeOfEncodeIsIdentity : Obligations.DecodeOfEncodeIsIdentity := by
  intro i hwf
  refine ⟨decodeWord_encode i hwf, fun rest => ?bytes⟩
  case bytes => rw [decode_bytesOfWord, decodeWord_encode i hwf]

end Sys2Proof
end

section
/-! Encoding undoes decoding: a word is its format's word of its own fields (rules R46, R47). -/

namespace Sys2Proof

theorem extractLsb'_extractLsb' {n : Nat} (w : BitVec n) {lo len lo' len' : Nat} (h : lo' + len' ≤ len) :
    (w.extractLsb' lo len).extractLsb' lo' len' = w.extractLsb' (lo + lo') len' := by
  ext k hk
  simp [show lo' + k < len by omega, Nat.add_assoc]

/-- A byte of a word is its two nibbles. -/
theorem nibbles_append (w : Word) (lo : Nat) :
    (w.extractLsb' (lo + 4) 4 ++ w.extractLsb' (lo + 0) 4 : Byte) = w.extractLsb' lo 8 := by
  rw [← extractLsb'_extractLsb' w (len := 8) (by decide),
    ← extractLsb'_extractLsb' w (len := 8) (by decide)]
  exact append_extract (n := 4) (m := 4) _

theorem nibble_of_fieldG {w : Word} {g : BitVec 4} (hg : fieldG w = g.toNat) : w.extractLsb' 12 4 = g :=
  BitVec.eq_of_toNat_eq hg

theorem high_byte_of_fields {w : Word} {g : BitVec 4} (hg : fieldG w = g.toNat) :
    (g ++ (BitVec.ofFin (fieldX w) : BitVec 4) : Byte) = w.extractLsb' 8 8 :=
  nibble_of_fieldG hg ▸ nibbles_append w 8

theorem low_byte_of_fields (w : Word) :
    ((BitVec.ofFin (fieldY w) : BitVec 4) ++ BitVec.ofNat 4 (fieldN w) : Byte) = w.extractLsb' 0 8 := by
  rw [fieldN, BitVec.ofNat_toNat, BitVec.setWidth_eq]
  exact nibbles_append w 0

theorem wordNNN_fields {w : Word} {g : BitVec 4} (hg : fieldG w = g.toNat) :
    wordNNN g (fieldNNN w) = w := by
  rw [wordNNN, ← nibble_of_fieldG hg, fieldNNN, BitVec.ofNat_toNat, BitVec.setWidth_eq]
  exact append_extract (n := 4) (m := 12) w

theorem wordXNN_fields {w : Word} {g : BitVec 4} (hg : fieldG w = g.toNat) :
    wordXNN g (fieldX w) (fieldNN w) = w := by
  rw [wordXNN, high_byte_of_fields hg, fieldNN]
  exact append_extract (n := 8) (m := 8) w

theorem wordXYN_fields {w : Word} {g : BitVec 4} (hg : fieldG w = g.toNat) :
    wordXYN g (fieldX w) (fieldY w) (fieldN w) = w := by
  rw [wordXYN, high_byte_of_fields hg, low_byte_of_fields]
  exact append_extract (n := 8) (m := 8) w

/-- The sub-operations of group `0x8`: the tested nibble is the one the encoder writes. -/
theorem encode_of_decodeGroup8 {x y : RegNum} {n : Nat} {i : Instr} (h : decodeGroup8 x y n = .ok i) :
    encode i = wordXYN 0x8#4 x y n := by
  unfold decodeGroup8 at h
  split_ifs at h <;> cases h <;> subst n <;> rfl

theorem encode_of_decodeGroupE {x : RegNum} {nn : Byte} {i : Instr} (h : decodeGroupE x nn = .ok i) :
    encode i = wordXNN 0xE#4 x nn := by
  unfold decodeGroupE at h
  split_ifs at h <;> cases h <;> subst nn <;> rfl

theorem encode_of_decodeGroupF {x : RegNum} {nn : Byte} {i : Instr} (h : decodeGroupF x nn = .ok i) :
    encode i = wordXNN 0xF#4 x nn := by
  unfold decodeGroupF at h
  split_ifs at h <;> cases h <;> subst nn <;> rfl

theorem encode_of_decodeGroup0 {w : Word} {i : Instr} (h : decodeGroup0 w = .ok i) : encode i = w := by
  unfold decodeGroup0 at h
  split_ifs at h <;> cases h <;> subst w <;> rfl

/-- Along the decoder's groups: each instruction's word is its format's word of the fields of `w`. -/
theorem encode_of_decodeWord {w : Word} {i : Instr} (h : decodeWord w = .ok i) : encode i = w := by
  unfold decodeWord at h
  split at h
  case h_1 => exact encode_of_decodeGroup0 h
  case h_6 hg =>
    split_ifs at h with hn
    cases h
    exact (congrArg (wordXYN 0x5#4 _ _) hn.symm).trans (wordXYN_fields hg)
  case h_9 hg => exact (encode_of_decodeGroup8 h).trans (wordXYN_fields hg)
  case h_10 hg =>
    split_ifs at h with hn
    cases h
    exact (congrArg (wordXYN 0x9#4 _ _) hn.symm).trans (wordXYN_fields hg)
  case h_15 hg => exact (encode_of_decodeGroupE h).trans (wordXNN_fields hg)
  case h_16 hg => exact (encode_of_decodeGroupF h).trans (wordXNN_fields hg)
  case h_17 => cases h
  case h_2 hg | h_3 hg | h_11 hg | h_12 hg => cases h; exact wordNNN_fields hg
  case h_4 hg | h_5 hg | h_7 hg | h_8 hg | h_13 hg => cases h; exact wordXNN_fields hg
  case h_14 hg => cases h; exact wordXYN_fields hg

/-- Settles O4: `encode` puts back the fields the decoder read and the constants it tested. -/
theorem encodeOfDecodeIsIdentity : Obligations.EncodeOfDecodeIsIdentity :=
  fun _ _ h => ⟨encode_of_decodeWord h, wellFormed_of_decodeWord h⟩

end Sys2Proof
end

section
/-! The opcode map and the decoder agree (rules R50, R51). -/

namespace Sys2Proof

theorem encodesInRow (i : Instr) : Laws.EncodesInRow.Statement i := by
  cases i with
  | cls => exact Laws.EncodesInRow.cls
  | ret => exact Laws.EncodesInRow.ret
  | jp nnn => exact Laws.EncodesInRow.jp nnn
  | call nnn => exact Laws.EncodesInRow.call nnn
  | seImm x nn => exact Laws.EncodesInRow.seImm x nn
  | sneImm x nn => exact Laws.EncodesInRow.sneImm x nn
  | seReg x y => exact Laws.EncodesInRow.seReg x y
  | ldImm x nn => exact Laws.EncodesInRow.ldImm x nn
  | addImm x nn => exact Laws.EncodesInRow.addImm x nn
  | ldReg x y => exact Laws.EncodesInRow.ldReg x y
  | orReg x y => exact Laws.EncodesInRow.orReg x y
  | andReg x y => exact Laws.EncodesInRow.andReg x y
  | xorReg x y => exact Laws.EncodesInRow.xorReg x y
  | addReg x y => exact Laws.EncodesInRow.addReg x y
  | sub x y => exact Laws.EncodesInRow.sub x y
  | shr x y => exact Laws.EncodesInRow.shr x y
  | subn x y => exact Laws.EncodesInRow.subn x y
  | shl x y => exact Laws.EncodesInRow.shl x y
  | sneReg x y => exact Laws.EncodesInRow.sneReg x y
  | ldI nnn => exact Laws.EncodesInRow.ldI nnn
  | jpV0 nnn => exact Laws.EncodesInRow.jpV0 nnn
  | rnd x nn => exact Laws.EncodesInRow.rnd x nn
  | drw x y n => exact Laws.EncodesInRow.drw x y n
  | skp x => exact Laws.EncodesInRow.skp x
  | sknp x => exact Laws.EncodesInRow.sknp x
  | ldVxDt x => exact Laws.EncodesInRow.ldVxDt x
  | ldVxK x => exact Laws.EncodesInRow.ldVxK x
  | ldDtVx x => exact Laws.EncodesInRow.ldDtVx x
  | ldStVx x => exact Laws.EncodesInRow.ldStVx x
  | addI x => exact Laws.EncodesInRow.addI x
  | ldF x => exact Laws.EncodesInRow.ldF x
  | ldB x => exact Laws.EncodesInRow.ldB x
  | ldMemVx x => exact Laws.EncodesInRow.ldMemVx x
  | ldVxMem x => exact Laws.EncodesInRow.ldVxMem x

/-- One instruction of each row of the opcode map, in its order. -/
def rowRepresentatives : List Instr :=
  [.cls, .ret, .jp 0, .call 0, .seImm 0 0, .sneImm 0 0, .seReg 0 0, .ldImm 0 0, .addImm 0 0, .ldReg 0 0,
   .orReg 0 0, .andReg 0 0, .xorReg 0 0, .addReg 0 0, .sub 0 0, .shr 0 0, .subn 0 0, .shl 0 0,
   .sneReg 0 0, .ldI 0, .jpV0 0, .rnd 0 0, .drw 0 0 0, .skp 0, .sknp 0, .ldVxDt 0, .ldVxK 0, .ldDtVx 0,
   .ldStVx 0, .addI 0, .ldF 0, .ldB 0, .ldMemVx 0, .ldVxMem 0]

theorem map_opcodeRow_rowRepresentatives : rowRepresentatives.map opcodeRow = opcodeMap := rfl

theorem exists_opcodeRow_of_mem {r : Word × Word} (hr : r ∈ opcodeMap) : ∃ i, opcodeRow i = r := by
  rw [← map_opcodeRow_rowRepresentatives] at hr
  obtain ⟨i, -, hi⟩ := List.mem_map.1 hr
  exact ⟨i, hi⟩

theorem decodes_in_row {w : Word} {r : Word × Word} (hr : r ∈ opcodeMap) (h : selectsRow w r) :
    ∃ i, decodeWord w = .ok i ∧ opcodeRow i = r := by
  obtain ⟨i, rfl⟩ := exists_opcodeRow_of_mem hr
  exact decodeWord_of_selectsRow i h

theorem selectsRow_of_decodeWord {w : Word} {i : Instr} (h : decodeWord w = .ok i) :
    selectsRow w (opcodeRow i) ∧ opcodeRow i ∈ opcodeMap :=
  encode_of_decodeWord h ▸ encodesInRow i

/-- Settles O5. The rows are disjoint because a word that selects a row decodes to an instruction of
it, and a word decodes to one instruction only. -/
theorem decodeAcceptsExactlyTheOpcodeMap : Obligations.DecodeAcceptsExactlyTheOpcodeMap := by
  refine ⟨rfl, fun w r hr r' hr' h h' => ?disjoint, fun w i => selectsRow_of_decodeWord,
    fun w r => decodes_in_row, fun w hnone => ?unknown⟩
  case disjoint =>
    obtain ⟨i, hi, rfl⟩ := decodes_in_row hr h
    obtain ⟨j, hj, rfl⟩ := decodes_in_row hr' h'
    rw [hi] at hj
    cases hj
    rfl
  case unknown =>
    cases hd : decodeWord w with
    | error reason => rw [Machine.decodeWord_error hd]
    | ok i =>
      obtain ⟨hsel, hmem⟩ := selectsRow_of_decodeWord hd
      exact absurd hsel (hnone _ hmem)

/-- Settles O1: ten closed evaluations of the decoder. -/
theorem writtenOutWordsDecode : Obligations.WrittenOutWordsDecode := by
  refine ⟨?_, ?_, ?_, ?_, ?_, ?_, ?_, ?_, ?_, ?_⟩ <;> decide

end Sys2Proof
end

section
/-! The meanings of the remaining instructions, one equation each, and for the instructions that can end
with an error what a completed one has done. -/

namespace Sys2Proof.Machine

/-! ## Instructions that always complete -/

theorem exec_rnd (x : RegNum) (nn : Byte) (s : State) :
    exec (.rnd x nn) s = .next (s.setV x (s.rnd &&& nn)).advance := rfl

theorem exec_ldVxDt (x : RegNum) (s : State) : exec (.ldVxDt x) s = .next (s.setV x s.dt).advance := rfl

theorem exec_addReg (x y : RegNum) (s : State) :
    exec (.addReg x y) s =
      .next (s.setFlagThenV (carryFlag (s.getV x) (s.getV y)) x (s.getV x + s.getV y)).advance := rfl

theorem exec_sub (x y : RegNum) (s : State) :
    exec (.sub x y) s =
      .next (s.setFlagThenV (noBorrowFlag (s.getV x) (s.getV y)) x (s.getV x - s.getV y)).advance := rfl

theorem exec_subn (x y : RegNum) (s : State) :
    exec (.subn x y) s =
      .next (s.setFlagThenV (noBorrowFlag (s.getV y) (s.getV x)) x (s.getV y - s.getV x)).advance := rfl

theorem exec_shr (x y : RegNum) (s : State) :
    exec (.shr x y) s = .next (s.setFlagThenV (lowBitFlag (s.getV x)) x (s.getV x >>> 1)).advance := rfl

theorem exec_shl (x y : RegNum) (s : State) :
    exec (.shl x y) s = .next (s.setFlagThenV (highBitFlag (s.getV x)) x (s.getV x <<< 1)).advance := rfl

theorem exec_jpV0 (nnn : Nat) (s : State) :
    exec (.jpV0 nnn) s = .next (s.setPc (jumpTable (s.getV 0) nnn)) := rfl

theorem exec_seReg (x y : RegNum) (s : State) :
    exec (.seReg x y) s = .next (s.skipIf (decide (s.getV x = s.getV y))) := rfl

theorem exec_sneReg (x y : RegNum) (s : State) :
    exec (.sneReg x y) s = .next (s.skipIf (decide (s.getV x ≠ s.getV y))) := rfl

theorem exec_skp (x : RegNum) (s : State) :
    exec (.skp x) s = .next (s.skipIf (pressed s.k (s.getV x))) := rfl

theorem exec_sknp (x : RegNum) (s : State) :
    exec (.sknp x) s = .next (s.skipIf (!pressed s.k (s.getV x))) := rfl

theorem exec_ldDtVx (x : RegNum) (s : State) :
    exec (.ldDtVx x) s = .next (s.setDt (s.getV x)).advance := rfl

theorem exec_ldStVx (x : RegNum) (s : State) :
    exec (.ldStVx x) s = .next (s.setSt (s.getV x)).advance := rfl

/-! ## `FX0A` -/

theorem exec_ldVxK_none {s : State} (x : RegNum) (h : lowestKey s.k = none) :
    exec (.ldVxK x) s = .next (s.setBlocked true) := by
  simp only [exec, execLdVxK, h]

theorem exec_ldVxK_some {s : State} (x : RegNum) {c : Nat} (h : lowestKey s.k = some c) :
    exec (.ldVxK x) s = .next ((s.setV x (BitVec.ofNat 8 c)).setBlocked false).advance := by
  simp only [exec, execLdVxK, h]

theorem exec_ldVxK_eq_next {s t : State} {x : RegNum} :
    exec (.ldVxK x) s = .next t ↔
      (lowestKey s.k = none ∧ t = s.setBlocked true) ∨
      ∃ c, lowestKey s.k = some c ∧ t = ((s.setV x (BitVec.ofNat 8 c)).setBlocked false).advance := by
  cases h : lowestKey s.k with
  | none => simp [exec_ldVxK_none x h, eq_comm]
  | some c => simp [exec_ldVxK_some x h, eq_comm]

/-! ## The call stack -/

/-- `w` in slot `SP` and `SP` one more (rule R88). -/
def State.pushed (s : State) (w : Word) (h : s.sp.val < 16) : State :=
  { s with stack := s.stack.set s.sp.val w, sp := ⟨s.sp.val + 1, by omega⟩ }

/-- `SP` one less and `pc` the slot it vacates (rule R86). -/
def State.popped (s : State) (h : 0 < s.sp.val) : State :=
  { s with sp := ⟨s.sp.val - 1, by omega⟩, pc := s.stack[s.sp.val - 1]'(by omega) }

theorem exec_ret_eq_next {s t : State} : exec .ret s = .next t ↔ ∃ h : 0 < s.sp.val, t = s.popped h :=
  popToPc_eq_next

theorem exec_ret_empty {s : State} (h : s.sp.val = 0) : exec .ret s = .fault .stackUnderflow :=
  popToPc_empty h

theorem exec_call_eq_next {s t : State} {nnn : Nat} :
    exec (.call nnn) s = .next t ↔
      ∃ h : s.sp.val < 16, t = (s.pushed (s.pc + 2) h).setPc (immAddress nnn) := by
  have hbind : exec (.call nnn) s = .next t ↔
      ∃ u, push s (s.pc + 2) = .next u ∧ (.next (u.setPc (immAddress nnn)) : Result) = .next t :=
    andThen_eq_next
  rw [hbind]
  constructor
  · rintro ⟨u, hu, ht⟩
    obtain ⟨hsp, rfl⟩ := push_eq_next.1 hu
    cases ht
    exact ⟨hsp, rfl⟩
  · rintro ⟨hsp, rfl⟩
    exact ⟨_, push_eq_next.2 ⟨hsp, rfl⟩, rfl⟩

theorem exec_call_full {s : State} (nnn : Nat) (h : s.sp.val = 16) :
    exec (.call nnn) s = .fault .stackOverflow :=
  andThen_eq_fault.2 (.inl (push_full _ h))

/-! ## Instructions that access memory at `I` -/

/-- The lit pixels of the sprite `DXYN` draws (rule R97). -/
def State.drawnPixels (s : State) (x y : RegNum) (n : Nat) : List (Fin 64 × Fin 32) :=
  s.spritePixels (s.getV x) (s.getV y) s.i.toNat n

/-- What `DXYN` leaves where its rows fit in memory (rule R97). -/
def State.drawn (s : State) (x y : RegNum) (n : Nat) : State :=
  ((s.setV VF (collisionFlag s.fb (s.drawnPixels x y n))).setFb
    (s.fb.toggleAll (s.drawnPixels x y n))).advance

theorem exec_drw (x y : RegNum) (n : Nat) (s : State) :
    exec (.drw x y n) s = checked s.i.toNat n (.next (s.drawn x y n)) := rfl

theorem exec_ldB (x : RegNum) (s : State) :
    exec (.ldB x) s =
      checked s.i.toNat 3 (.next (s.storeBytes s.i.toNat (decimalDigits (s.getV x))).advance) := rfl

theorem exec_ldMemVx (x : RegNum) (s : State) :
    exec (.ldMemVx x) s =
      checked s.i.toNat (x.val + 1) (.next (s.storeBytes s.i.toNat (s.regsUpTo x)).advance) := rfl

theorem exec_ldVxMem (x : RegNum) (s : State) :
    exec (.ldVxMem x) s =
      checked s.i.toNat (x.val + 1) (.next (s.setVUpTo x fun j => s.readByte (s.i.toNat + j)).advance) := rfl

/-- A checked access of at least one byte, once it has completed. -/
theorem checked_succ_eq_next {base len : Nat} {u t : State} :
    checked base (len + 1) (.next u) = .next t ↔ base + len ≤ 0xFFF ∧ t = u := by
  rw [checked_eq_next]
  constructor
  · rintro ⟨hfit, ht⟩
    cases ht
    exact ⟨by omega, rfl⟩
  · rintro ⟨hfit, rfl⟩
    exact ⟨by omega, rfl⟩

theorem exec_drw_eq_next {s t : State} {x y : RegNum} {n : Nat} :
    exec (.drw x y n) s = .next t ↔ (n = 0 ∨ s.i.toNat + n ≤ 4096) ∧ t = s.drawn x y n := by
  rw [exec_drw, checked_eq_next]
  simp [eq_comm]

theorem exec_ldB_eq_next {s t : State} {x : RegNum} :
    exec (.ldB x) s = .next t ↔
      s.i.toNat + 2 ≤ 0xFFF ∧ t = (s.storeBytes s.i.toNat (decimalDigits (s.getV x))).advance :=
  checked_succ_eq_next

theorem exec_ldMemVx_eq_next {s t : State} {x : RegNum} :
    exec (.ldMemVx x) s = .next t ↔
      s.i.toNat + x.val ≤ 0xFFF ∧ t = (s.storeBytes s.i.toNat (s.regsUpTo x)).advance :=
  checked_succ_eq_next

theorem exec_ldVxMem_eq_next {s t : State} {x : RegNum} :
    exec (.ldVxMem x) s = .next t ↔
      s.i.toNat + x.val ≤ 0xFFF ∧ t = (s.setVUpTo x fun j => s.readByte (s.i.toNat + j)).advance :=
  checked_succ_eq_next

end Sys2Proof.Machine
end

section
/-! Frames: which pieces of state an update leaves as they were, and that frames compose. -/

namespace Sys2Proof.Machine

/-! ## Composing frames -/

theorem SamePart.trans {s t u : State} {p : Part} (h : SamePart s t p) (h' : SamePart t u p) :
    SamePart s u p := by
  cases p with
  | mem | v | stack => exact fun a => (h' a).trans (h a)
  | fb => exact fun x y => (h' x y).trans (h x y)
  | rnd => exact ⟨h'.1.trans h.1, h'.2.trans h.2⟩
  | i | pc | sp | dt | st | k | needsRedraw | blockedOnKey | font => exact Eq.trans h' h

theorem SameExcept.trans {ps qs : List Part} {s t u : State} (h : SameExcept ps s t)
    (h' : SameExcept qs t u) : SameExcept (ps ++ qs) s u := fun p hp =>
  (h p fun hmem => hp (List.mem_append_left qs hmem)).trans
    (h' p fun hmem => hp (List.mem_append_right ps hmem))

theorem SameExcept.mono {ps qs : List Part} {s t : State} (h : SameExcept ps s t) (hsub : ps ⊆ qs) :
    SameExcept qs s t := fun p hp => h p fun hmem => hp (hsub hmem)

/-! ## The frame of each update -/

theorem sameExcept_advance (s : State) : SameExcept [.pc] s s.advance := sameExcept_setPc s _

theorem sameExcept_setV (s : State) (x : RegNum) (b : Byte) : SameExcept [.v] s (s.setV x b) := by
  intro p hp
  cases p <;> simp_all [SamePart]

theorem sameExcept_setFlagThenV (s : State) (flag : Byte) (x : RegNum) (b : Byte) :
    SameExcept [.v] s (s.setFlagThenV flag x b) :=
  ((sameExcept_setV s VF flag).trans (sameExcept_setV _ x b)).mono (by simp)

theorem sameExcept_setVUpTo (s : State) (x : RegNum) (f : Nat → Byte) :
    SameExcept [.v] s (s.setVUpTo x f) := by
  intro p hp
  cases p <;> simp_all [SamePart]

theorem sameExcept_setDt (s : State) (b : Byte) : SameExcept [.dt] s (s.setDt b) := by
  intro p hp
  cases p <;> simp_all [SamePart]

theorem sameExcept_setSt (s : State) (b : Byte) : SameExcept [.st] s (s.setSt b) := by
  intro p hp
  cases p <;> simp_all [SamePart]

theorem sameExcept_setBlocked (s : State) (b : Bool) : SameExcept [.blockedOnKey] s (s.setBlocked b) := by
  intro p hp
  cases p <;> simp_all [SamePart]

theorem sameExcept_storeBytes (s : State) (a : Nat) (bs : List Byte) :
    SameExcept [.mem] s (s.storeBytes a bs) := by
  intro p hp
  cases p <;> simp_all [SamePart]

theorem sameExcept_setFb (s : State) (fb : Framebuffer) :
    SameExcept [.fb, .needsRedraw] s (s.setFb fb) := by
  intro p hp
  cases p <;> simp_all [SamePart]

theorem sameExcept_setKeys (s : State) (keys : BitVec 16) : SameExcept [.k] s (s.setKeys keys) := by
  intro p hp
  cases p <;> simp_all [SamePart]

theorem sameExcept_clearRedraw (s : State) : SameExcept [.needsRedraw] s s.clearRedraw := by
  intro p hp
  cases p <;> simp_all [SamePart]

theorem sameExcept_pushed (s : State) (w : Word) (h : s.sp.val < 16) :
    SameExcept [.stack, .sp] s (s.pushed w h) := by
  intro p hp
  cases p <;> simp_all [SamePart, State.pushed, State.readByte, State.getV]

theorem sameExcept_popped (s : State) (h : 0 < s.sp.val) : SameExcept [.sp, .pc] s (s.popped h) := by
  intro p hp
  cases p <;> simp_all [SamePart, State.popped, State.readByte, State.getV]

theorem sameExcept_drawn (s : State) (x y : RegNum) (n : Nat) :
    SameExcept [.v, .fb, .needsRedraw, .pc] s (s.drawn x y n) :=
  ((sameExcept_setV s VF _).trans (sameExcept_setFb _ _)).trans (sameExcept_advance _)

theorem sameExcept_endStep (s : State) : SameExcept [.dt, .st, .rnd] s s.endStep := by
  intro p hp
  cases p <;> simp_all [SamePart]

end Sys2Proof.Machine
end

section
/-! What an instruction and a `STEP` leave as they were (rule R27). -/

namespace Sys2Proof.Machine

/-- Rule R27's engine column, one arm per instruction: the frames of the updates it is made of. -/
theorem sameExcept_writes_of_exec {i : Instr} {s t : State} (h : exec i s = .next t) :
    SameExcept (writes i) s t := by
  cases i with
  | ret =>
    obtain ⟨hsp, rfl⟩ := exec_ret_eq_next.1 h
    exact sameExcept_popped s hsp
  | call nnn =>
    obtain ⟨hsp, rfl⟩ := exec_call_eq_next.1 h
    exact (sameExcept_pushed s _ hsp).trans (sameExcept_setPc _ _)
  | drw x y n =>
    obtain ⟨-, rfl⟩ := exec_drw_eq_next.1 h
    exact sameExcept_drawn s x y n
  | ldVxK x =>
    obtain ⟨-, rfl⟩ | ⟨c, -, rfl⟩ := exec_ldVxK_eq_next.1 h
    · exact (sameExcept_setBlocked s true).mono (by simp [writes])
    · exact ((sameExcept_setV s x _).trans (sameExcept_setBlocked _ false)).trans (sameExcept_advance _)
  | ldB x =>
    obtain ⟨-, rfl⟩ := exec_ldB_eq_next.1 h
    exact (sameExcept_storeBytes s _ _).trans (sameExcept_advance _)
  | ldMemVx x =>
    obtain ⟨-, rfl⟩ := exec_ldMemVx_eq_next.1 h
    exact (sameExcept_storeBytes s _ _).trans (sameExcept_advance _)
  | ldVxMem x =>
    obtain ⟨-, rfl⟩ := exec_ldVxMem_eq_next.1 h
    exact (sameExcept_setVUpTo s x _).trans (sameExcept_advance _)
  | cls => cases h; exact sameExcept_setFb_advance s _
  | jp | jpV0 => cases h; exact sameExcept_setPc s _
  | seImm | sneImm | seReg | sneReg | skp | sknp => cases h; exact sameExcept_skipIf s _
  | ldImm | addImm | ldReg | orReg | andReg | xorReg | rnd | ldVxDt =>
    cases h; exact sameExcept_setV_advance s _ _
  | addReg | sub | shr | subn | shl =>
    cases h; exact (sameExcept_setFlagThenV s _ _ _).trans (sameExcept_advance _)
  | ldI | addI | ldF => cases h; exact sameExcept_setI_advance s _
  | ldDtVx => cases h; exact (sameExcept_setDt s _).trans (sameExcept_advance _)
  | ldStVx => cases h; exact (sameExcept_setSt s _).trans (sameExcept_advance _)

/-- A completed `STEP` of a known instruction is its execute phase followed by the timer phase. -/
theorem exec_of_step {s t : State} {i : Instr} (ha : AboutToRun i s) (h : step s = .next t) :
    ∃ u, exec i s = .next u ∧ t = u.endStep := by
  obtain ⟨j, u, -, hj, hu, rfl⟩ := step_eq_next.1 h
  rw [ha.2] at hj
  cases hj
  exact ⟨u, hu, rfl⟩

/-- Settles O16: a `STEP`'s frame is the instruction's followed by the timer phase's. -/
theorem engineWritesOnlyWhatItsTableSays : Obligations.EngineWritesOnlyWhatItsTableSays := by
  refine fun i s t => ⟨sameExcept_writes_of_exec, fun ha hstep => ?step⟩
  case step =>
    obtain ⟨u, hu, rfl⟩ := exec_of_step ha hstep
    exact (sameExcept_writes_of_exec hu).trans (sameExcept_endStep u)

/-- Settles O6: `STEP` is the decoded instruction followed by `State.endStep`. -/
theorem stepRunsTheDecodedInstruction : Obligations.StepRunsTheDecodedInstruction := by
  rintro s i ⟨hf, hd⟩
  refine ⟨wellFormed_of_decodeWord hd, fun u hu => ?next, fun kind => step_of_decoded_fault hf hd⟩
  case next =>
    exact ⟨u.endStep, step_of_decoded_next hf hd hu, countDown_toNat u.dt, countDown_toNat u.st,
      sameExcept_endStep u, State.endStep_rndInput u, State.endStep_draws u⟩

/-! ## The timers -/

theorem dt_mem_writes {i : Instr} : Part.dt ∈ writes i ↔ ∃ x, i = .ldDtVx x := by
  cases i <;> simp [writes]

theorem st_mem_writes {i : Instr} : Part.st ∈ writes i ↔ ∃ x, i = .ldStVx x := by
  cases i <;> simp [writes]

theorem dt_of_exec {i : Instr} {s t : State} (h : exec i s = .next t) (hi : ∀ x, i ≠ .ldDtVx x) :
    t.dt = s.dt :=
  sameExcept_writes_of_exec h .dt (by simpa [dt_mem_writes] using hi)

theorem st_of_exec {i : Instr} {s t : State} (h : exec i s = .next t) (hi : ∀ x, i ≠ .ldStVx x) :
    t.st = s.st :=
  sameExcept_writes_of_exec h .st (by simpa [st_mem_writes] using hi)

theorem dt_of_exec_ldDtVx {x : RegNum} {s t : State} (h : exec (.ldDtVx x) s = .next t) :
    t.dt = s.getV x := by
  cases h
  rfl

theorem st_of_exec_ldStVx {x : RegNum} {s t : State} (h : exec (.ldStVx x) s = .next t) :
    t.st = s.getV x := by
  cases h
  rfl

/-- Settles O12: the execute phase leaves a timer as it was, or `FX15` or `FX18` has just written it;
the timer phase takes one off. -/
theorem everyCompletedStepCountsBothTimersDown : Obligations.EveryCompletedStepCountsBothTimersDown := by
  intro s t i ha hstep
  obtain ⟨u, hu, rfl⟩ := exec_of_step ha hstep
  have hdt : u.endStep.dt.toNat = u.dt.toNat - 1 := countDown_toNat u.dt
  have hst : u.endStep.st.toNat = u.st.toNat - 1 := countDown_toNat u.st
  refine ⟨?ldDt, fun hi => ?otherDt, ?ldSt, fun hi => ?otherSt⟩
  case ldDt =>
    rintro x rfl
    rw [hdt, dt_of_exec_ldDtVx hu]
  case otherDt => rw [hdt, dt_of_exec hu hi]
  case ldSt =>
    rintro x rfl
    rw [hst, st_of_exec_ldStVx hu]
  case otherSt => rw [hst, st_of_exec hu hi]

/-- The sound timer that the timer phase finds is 1: what `FX18` has written, or what it was. -/
theorem st_eq_one_of_exec {i : Instr} {s t : State} (h : exec i s = .next t) :
    t.st = 1 ↔
      (∃ x, i = .ldStVx x ∧ (s.getV x).toNat = 1) ∨ ((∀ x, i ≠ .ldStVx x) ∧ s.st.toNat = 1) := by
  have hone : ∀ b : Byte, b = 1 ↔ b.toNat = 1 := fun b => BitVec.toNat_inj.symm
  by_cases hi : ∃ x, i = .ldStVx x
  · obtain ⟨x, rfl⟩ := hi
    rw [st_of_exec_ldStVx h, hone]
    simp
  · have hne : ∀ x, i ≠ .ldStVx x := fun x hx => hi ⟨x, hx⟩
    rw [st_of_exec h hne, hone]
    simp [hne]

/-- Settles O13: the pulse is read off the state the execute phase leaves, where it completes. -/
theorem tonePulsesWhenSoundTimerLeavesOne : Obligations.TonePulsesWhenSoundTimerLeavesOne := by
  intro s rnd i ha
  refine ⟨?pulse, decide_eq_true_iff⟩
  case pulse =>
    have hphase : executePhase (s.withRnd rnd) = exec i (s.withRnd rnd) := executePhase_of_decoded ha.1 ha.2
    simp only [operate, toneRequest, step, hphase]
    cases he : exec i (s.withRnd rnd) with
    | next u => simpa [endWith] using st_eq_one_of_exec he
    | fault kind => simp [endWith]
    | refused r => simp [endWith]

end Sys2Proof.Machine
end

section
/-! Which error an instruction and a `STEP` end with (rules R120 to R129). -/

namespace Sys2Proof.Machine

/-! ## The execute phase -/

theorem exec_ldVxK_completes (x : RegNum) (s : State) : ∃ t, exec (.ldVxK x) s = .next t := by
  cases h : lowestKey s.k with
  | none => exact ⟨_, exec_ldVxK_none x h⟩
  | some c => exact ⟨_, exec_ldVxK_some x h⟩

theorem checked_succ_of_not_fits {base len : Nat} (go : Result) (h : 0xFFF < base + len) :
    checked base (len + 1) go = .fault .memoryOutOfRange :=
  checked_of_not_fits go (by omega)

theorem exec_drw_out_of_range {s : State} (x y : RegNum) {n : Nat}
    (h : 0 < n ∧ 0xFFF < s.i.toNat + n - 1) : exec (.drw x y n) s = .fault .memoryOutOfRange :=
  checked_of_not_fits _ (by change ¬(n = 0 ∨ s.i.toNat + n ≤ 4096); omega)

theorem exec_ldB_out_of_range {s : State} (x : RegNum) (h : 0xFFF < s.i.toNat + 2) :
    exec (.ldB x) s = .fault .memoryOutOfRange :=
  checked_succ_of_not_fits _ h

theorem exec_ldMemVx_out_of_range {s : State} {x : RegNum} (h : 0xFFF < s.i.toNat + x.val) :
    exec (.ldMemVx x) s = .fault .memoryOutOfRange :=
  checked_succ_of_not_fits _ h

theorem exec_ldVxMem_out_of_range {s : State} {x : RegNum} (h : 0xFFF < s.i.toNat + x.val) :
    exec (.ldVxMem x) s = .fault .memoryOutOfRange :=
  checked_succ_of_not_fits _ h

/-- Settles O44. -/
theorem accessesBeyondMemoryFault : Obligations.AccessesBeyondMemoryFault :=
  fun x y _ _ => ⟨fun hpos hn => exec_drw_out_of_range x y ⟨hpos, hn⟩, exec_ldB_out_of_range x,
    exec_ldMemVx_out_of_range, exec_ldVxMem_out_of_range⟩

/-- An instruction completes, or ends with the error `execFault` names. -/
theorem exec_cases (i : Instr) (s : State) :
    (execFault i s = none ∧ ∃ t, exec i s = .next t) ∨
    ∃ kind, execFault i s = some kind ∧ exec i s = .fault kind := by
  cases i with
  | ret =>
    by_cases h : s.sp.val = 0
    · exact .inr ⟨_, if_pos h, exec_ret_empty h⟩
    · exact .inl ⟨if_neg h, _, exec_ret_eq_next.2 ⟨Nat.pos_of_ne_zero h, rfl⟩⟩
  | call nnn =>
    by_cases h : s.sp.val = 16
    · exact .inr ⟨_, if_pos h, exec_call_full nnn h⟩
    · exact .inl ⟨if_neg h, _, exec_call_eq_next.2 ⟨by omega, rfl⟩⟩
  | drw x y n =>
    by_cases h : 0 < n ∧ 0xFFF < s.i.toNat + n - 1
    · exact .inr ⟨_, if_pos h, exec_drw_out_of_range x y h⟩
    · exact .inl ⟨if_neg h, _, exec_drw_eq_next.2 ⟨by omega, rfl⟩⟩
  | ldB x =>
    by_cases h : 0xFFF < s.i.toNat + 2
    · exact .inr ⟨_, if_pos h, exec_ldB_out_of_range x h⟩
    · exact .inl ⟨if_neg h, _, exec_ldB_eq_next.2 ⟨by omega, rfl⟩⟩
  | ldMemVx x =>
    by_cases h : 0xFFF < s.i.toNat + x.val
    · exact .inr ⟨_, if_pos h, exec_ldMemVx_out_of_range h⟩
    · exact .inl ⟨if_neg h, _, exec_ldMemVx_eq_next.2 ⟨by omega, rfl⟩⟩
  | ldVxMem x =>
    by_cases h : 0xFFF < s.i.toNat + x.val
    · exact .inr ⟨_, if_pos h, exec_ldVxMem_out_of_range h⟩
    · exact .inl ⟨if_neg h, _, exec_ldVxMem_eq_next.2 ⟨by omega, rfl⟩⟩
  | ldVxK x => exact .inl ⟨rfl, exec_ldVxK_completes x s⟩
  | _ => exact .inl ⟨rfl, _, rfl⟩

theorem execFault_ne_programTooLarge (i : Instr) (s : State) : execFault i s ≠ some .programTooLarge := by
  cases i <;> simp [execFault]

/-! ## The `STEP` -/

theorem stepFault_of_not_fetchable {s : State} (h : ¬Fetchable s) : stepFault s = some .memoryOutOfRange :=
  if_pos (Nat.lt_of_not_le h)

theorem stepFault_of_unknown {s : State} {r : Reject} (hf : Fetchable s)
    (hd : decodeWord (wordAtPc s) = .error r) : stepFault s = some .unknownOpcode := by
  rw [stepFault, if_neg (Nat.not_lt.2 hf), hd]

theorem stepFault_of_decoded {s : State} {i : Instr} (hf : Fetchable s)
    (hd : decodeWord (wordAtPc s) = .ok i) : stepFault s = execFault i s := by
  rw [stepFault, if_neg (Nat.not_lt.2 hf), hd]

theorem step_of_executePhase_fault {s : State} {kind : Fault} (h : executePhase s = .fault kind) :
    step s = .fault kind :=
  andThen_eq_fault.2 (.inl h)

/-- A `STEP` completes, or ends with the error `stepFault` names. -/
theorem step_cases (s : State) :
    (stepFault s = none ∧ ∃ t, step s = .next t) ∨
    ∃ kind, stepFault s = some kind ∧ step s = .fault kind := by
  rcases executePhase_cases s with ⟨hf, he⟩ | ⟨hf, hd, he⟩ | ⟨i, hf, hd, -⟩
  · exact .inr ⟨_, stepFault_of_not_fetchable hf, step_of_executePhase_fault he⟩
  · exact .inr ⟨_, stepFault_of_unknown hf hd, step_of_executePhase_fault he⟩
  · rw [stepFault_of_decoded hf hd]
    rcases exec_cases i s with ⟨hnone, u, hu⟩ | ⟨kind, hkind, hu⟩
    · exact .inl ⟨hnone, _, step_of_decoded_next hf hd hu⟩
    · exact .inr ⟨kind, hkind, step_of_decoded_fault hf hd hu⟩

theorem step_eq_fault_iff (s : State) (kind : Fault) : step s = .fault kind ↔ stepFault s = some kind := by
  rcases step_cases s with ⟨hnone, t, ht⟩ | ⟨kind', hkind, hstep⟩
  · simp [hnone, ht]
  · simp [hkind, hstep]

/-- Settles O8. -/
theorem stepFaultsExactlyInPriorityOrder : Obligations.StepFaultsExactlyInPriorityOrder :=
  step_eq_fault_iff

theorem stepFault_ne_programTooLarge (s : State) : stepFault s ≠ some .programTooLarge := by
  rcases executePhase_cases s with ⟨hf, -⟩ | ⟨hf, hd, -⟩ | ⟨i, hf, hd, -⟩
  · simp [stepFault_of_not_fetchable hf]
  · simp [stepFault_of_unknown hf hd]
  · exact stepFault_of_decoded hf hd ▸ execFault_ne_programTooLarge i s

theorem step_ne_refused (s : State) (r : Refusal) : step s ≠ .refused r := by
  rcases step_cases s with ⟨-, t, ht⟩ | ⟨kind, -, hstep⟩
  · simp [ht]
  · simp [hstep]

/-- Settles O9: `step_cases` has no third case, and `stepFault` never names `ProgramTooLarge`. -/
theorem stepCompletesOrFaults : Obligations.StepCompletesOrFaults := by
  refine fun s => ⟨fun hnone => ?completes, step_ne_refused s,
    fun h => stepFault_ne_programTooLarge s ((step_eq_fault_iff s _).1 h)⟩
  case completes =>
    rcases step_cases s with ⟨-, hnext⟩ | ⟨kind, hkind, -⟩
    · exact hnext
    · rw [hnone] at hkind
      cases hkind

/-- The error of an instruction is read off `SP` and `I` alone. -/
theorem execFault_congr {s t : State} (i : Instr) (hsp : t.sp = s.sp) (hi : t.i = s.i) :
    execFault i t = execFault i s := by
  unfold execFault
  rw [hsp, hi]

/-- The error of a `STEP` is read off memory, `pc`, `SP` and `I` alone. -/
theorem stepFault_congr {s t : State} (hmem : ∀ a, t.readByte a = s.readByte a) (hpc : t.pc = s.pc)
    (hsp : t.sp = s.sp) (hi : t.i = s.i) : stepFault t = stepFault s := by
  simp only [stepFault, wordAtPc, hmem, hpc, execFault_congr _ hsp hi]

/-- Settles O11: keys and the random byte are not among what the error is read off. -/
theorem faultingStepFaultsAgain : Obligations.FaultingStepFaultsAgain := by
  intro s kind h keys rnd
  rw [step_eq_fault_iff] at h ⊢
  exact (stepFault_congr (fun _ => rfl) rfl rfl rfl).trans h

/-! ## Every operation -/

theorem endWith_error {s : State} {tone : Bool} {o : Result} {kind : Fault}
    (h : (endWith s tone o).result = .error kind) : endWith s tone o = ⟨s, .error kind, false⟩ := by
  cases o with
  | next t => cases h
  | fault kind' => cases h; rfl
  | refused r => cases h

/-- Settles O10: only `LOAD` and `STEP` can end with an error, and `endWith` then gives the old state. -/
theorem errorsLeaveTheStateUnchanged : Obligations.ErrorsLeaveTheStateUnchanged := by
  intro op s kind h
  have hend : operate op s = ⟨s, .error kind, false⟩ := by
    cases op with
    | load bytes => exact endWith_error h
    | step rnd => exact endWith_error h
    | reset | setKeys keys | clearRedraw => cases h
  rw [hend]
  exact ⟨rfl, rfl⟩

theorem font_not_mem_writes (i : Instr) : Part.font ∉ writes i := by
  cases i <;> simp [writes]

theorem font_of_step {s t : State} (h : step s = .next t) : t.font = s.font := by
  obtain ⟨i, u, -, -, hu, rfl⟩ := step_eq_next.1 h
  exact sameExcept_writes_of_exec hu .font (font_not_mem_writes i)

theorem load_eq_next {bytes : List Byte} {s t : State} :
    load bytes s = .next t ↔ bytes.length ≤ 3584 ∧ t = s.storeBytes 0x200 bytes := by
  unfold load raise
  split <;> simp_all [eq_comm]

/-- An operation built by `endWith` keeps what its outcome keeps. -/
theorem endWith_state {P : State → Prop} {s : State} (tone : Bool) (o : Result) (hs : P s)
    (ho : ∀ t, o = .next t → P t) : P (endWith s tone o).state := by
  cases o with
  | next t => exact ho t rfl
  | fault kind => exact hs
  | refused r => exact hs

/-- Settles O58: the font is in no instruction's `writes`. -/
theorem noOperationChangesTheFont : Obligations.NoOperationChangesTheFont := by
  intro op s
  cases op with
  | reset | setKeys keys | clearRedraw => rfl
  | load bytes =>
    refine endWith_state (P := fun t => t.font = s.font) _ _ rfl fun t ht => ?_
    obtain ⟨-, rfl⟩ := load_eq_next.1 ht
    rfl
  | step rnd => exact endWith_state (P := fun t => t.font = s.font) _ _ rfl fun t => font_of_step

end Sys2Proof.Machine
end

section
/-! The invariants of rule R25, kept by each update, then by each instruction, then by each operation. -/

namespace Sys2Proof.Machine

variable {s : State}

/-! ## Updates that write nothing the invariants speak of -/

theorem Inv.setV (h : Inv s) (x : RegNum) (b : Byte) : Inv (s.setV x b) := ⟨h.index, h.pc, h.stack, h.mem⟩

theorem Inv.setFlagThenV (h : Inv s) (flag : Byte) (x : RegNum) (b : Byte) :
    Inv (s.setFlagThenV flag x b) :=
  (h.setV VF flag).setV x b

theorem Inv.setVUpTo (h : Inv s) (x : RegNum) (f : Nat → Byte) : Inv (s.setVUpTo x f) :=
  ⟨by simpa using h.index, by simpa using h.pc, by simpa using h.stack, by simpa using h.mem⟩

theorem Inv.setDt (h : Inv s) (b : Byte) : Inv (s.setDt b) := ⟨h.index, h.pc, h.stack, h.mem⟩

theorem Inv.setSt (h : Inv s) (b : Byte) : Inv (s.setSt b) := ⟨h.index, h.pc, h.stack, h.mem⟩

theorem Inv.setBlocked (h : Inv s) (b : Bool) : Inv (s.setBlocked b) := ⟨h.index, h.pc, h.stack, h.mem⟩

theorem Inv.setFb (h : Inv s) (fb : Framebuffer) : Inv (s.setFb fb) := ⟨h.index, h.pc, h.stack, h.mem⟩

theorem Inv.endStep (h : Inv s) : Inv s.endStep := ⟨h.index, h.pc, h.stack, h.mem⟩

theorem Inv.withRnd (h : Inv s) (b : Byte) : Inv (s.withRnd b) := ⟨h.index, h.pc, h.stack, h.mem⟩

theorem Inv.setKeys (h : Inv s) (keys : BitVec 16) : Inv (s.setKeys keys) :=
  ⟨h.index, h.pc, h.stack, h.mem⟩

theorem Inv.clearRedraw (h : Inv s) : Inv s.clearRedraw := ⟨h.index, h.pc, h.stack, h.mem⟩

/-! ## Updates that write one of them -/

theorem Inv.setPc (h : Inv s) {target : Word} (ht : target.toNat ≤ 0x10FE) : Inv (s.setPc target) :=
  ⟨h.index, ht, h.stack, h.mem⟩

/-- The last word a fetch reads is at `0xFFE`, so an advance ends at `0x1000` at most. -/
theorem Inv.advance (h : Inv s) (hf : Fetchable s) : Inv s.advance :=
  h.setPc (by rw [toNat_pc_add_two hf]; unfold Fetchable at hf; omega)

/-- A skip ends at `0x1002` at most. -/
theorem Inv.skipIf (h : Inv s) (hf : Fetchable s) (c : Bool) : Inv (s.skipIf c) := by
  cases c
  case false => exact h.advance hf
  case true => exact h.setPc (by rw [if_pos rfl, toNat_pc_add_four hf]; unfold Fetchable at hf; omega)

theorem Inv.setI (h : Inv s) {w : Word} (hw : w.toNat ≤ 0xFFF) : Inv (s.setI w) :=
  ⟨hw, h.pc, h.stack, h.mem⟩

theorem Inv.storeBytes (h : Inv s) {a : Nat} {bs : List Byte} (hfit : a + bs.length ≤ 4096) :
    Inv (s.storeBytes a bs) :=
  ⟨h.index, h.pc, h.stack, Memory.wf_writeBytes h.mem bs (.inr hfit)⟩

/-- The new entry is the pushed word, and the entries below it are the old ones. -/
theorem Inv.pushed (h : Inv s) (hsp : s.sp.val < 16) {w : Word} (hw : 2 ≤ w.toNat ∧ w.toNat ≤ 0x1000) :
    Inv (s.pushed w hsp) := by
  refine ⟨h.index, h.pc, fun j hj => ?entries, h.mem⟩
  case entries =>
    have hj' : j.val < s.sp.val + 1 := hj
    change 2 ≤ ((s.stack.set s.sp.val w)[j.val]).toNat ∧ ((s.stack.set s.sp.val w)[j.val]).toNat ≤ 0x1000
    rw [Vector.getElem_set]
    split
    · exact hw
    · exact h.stack j (by omega)

theorem Inv.popped (h : Inv s) (hsp : 0 < s.sp.val) : Inv (s.popped hsp) := by
  have hlt := s.sp.isLt
  have htop := h.stack ⟨s.sp.val - 1, by omega⟩ (by simp; omega)
  refine ⟨h.index, Nat.le_trans htop.2 (by decide), fun j hj => ?entries, h.mem⟩
  case entries =>
    have hj' : j.val < s.sp.val - 1 := hj
    exact h.stack j (by omega)

/-! ## Targets -/

theorem toNat_immAddress_le (nnn : Nat) (h : nnn ≤ 0xFFF) : (immAddress nnn).toNat ≤ 0xFFF :=
  (toNat_immAddress h).trans_le h

theorem toNat_jumpTable (v0 : Byte) {nnn : Nat} (h : nnn ≤ 0xFFF) :
    (jumpTable v0 nnn).toNat = v0.toNat + nnn := by
  have hv := v0.isLt
  rw [jumpTable, BitVec.toNat_ofNat, Nat.mod_eq_of_lt (by omega)]

/-! ## Instructions, the `STEP`, operations -/

/-- One arm per instruction: the updates it is made of keep the invariants, its operands being in
range. -/
theorem Inv.exec {i : Instr} {t : State} (hs : Inv s) (hf : Fetchable s) (hwf : i.wellFormed = true)
    (h : exec i s = .next t) : Inv t := by
  cases i with
  | ret =>
    obtain ⟨hsp, rfl⟩ := exec_ret_eq_next.1 h
    exact hs.popped hsp
  | call nnn =>
    obtain ⟨hsp, rfl⟩ := exec_call_eq_next.1 h
    have hnnn := toNat_immAddress_le nnn (of_decide_eq_true hwf)
    have hret := toNat_pc_add_two hf
    unfold Fetchable at hf
    exact (hs.pushed hsp (by omega)).setPc (by omega)
  | jp nnn =>
    cases h
    exact hs.setPc (Nat.le_trans (toNat_immAddress_le nnn (of_decide_eq_true hwf)) (by decide))
  | jpV0 nnn =>
    cases h
    have hnnn : nnn ≤ 0xFFF := of_decide_eq_true hwf
    have hv := (s.getV 0).isLt
    exact hs.setPc (by rw [toNat_jumpTable _ hnnn]; omega)
  | ldI nnn =>
    cases h
    exact (hs.setI (toNat_immAddress_le nnn (of_decide_eq_true hwf))).advance hf
  | addI x =>
    cases h
    exact (hs.setI (by rw [toNat_indexSum]; omega)).advance hf
  | ldF x =>
    cases h
    exact (hs.setI (by rw [toNat_glyphAddress]; omega)).advance hf
  | drw x y n =>
    obtain ⟨-, rfl⟩ := exec_drw_eq_next.1 h
    exact ((hs.setV _ _).setFb _).advance hf
  | ldVxK x =>
    obtain ⟨-, rfl⟩ | ⟨c, -, rfl⟩ := exec_ldVxK_eq_next.1 h
    · exact hs.setBlocked true
    · exact ((hs.setV _ _).setBlocked false).advance hf
  | ldB x =>
    obtain ⟨hfit, rfl⟩ := exec_ldB_eq_next.1 h
    exact (hs.storeBytes (by rw [length_decimalDigits]; omega)).advance hf
  | ldMemVx x =>
    obtain ⟨hfit, rfl⟩ := exec_ldMemVx_eq_next.1 h
    exact (hs.storeBytes (by rw [State.length_regsUpTo]; omega)).advance hf
  | ldVxMem x =>
    obtain ⟨-, rfl⟩ := exec_ldVxMem_eq_next.1 h
    exact (hs.setVUpTo _ _).advance hf
  | cls => cases h; exact (hs.setFb _).advance hf
  | seImm | sneImm | seReg | sneReg | skp | sknp => cases h; exact hs.skipIf hf _
  | ldImm | addImm | ldReg | orReg | andReg | xorReg | rnd | ldVxDt =>
    cases h; exact (hs.setV _ _).advance hf
  | addReg | sub | shr | subn | shl => cases h; exact (hs.setFlagThenV _ _ _).advance hf
  | ldDtVx => cases h; exact (hs.setDt _).advance hf
  | ldStVx => cases h; exact (hs.setSt _).advance hf

theorem Inv.step {t : State} (hs : Inv s) (h : step s = .next t) : Inv t := by
  obtain ⟨i, u, hf, hd, hu, rfl⟩ := step_eq_next.1 h
  exact (hs.exec hf (wellFormed_of_decodeWord hd) hu).endStep

/-- Settles O19: a decoded instruction is well formed and keeps the invariants, and so does the timer
phase. -/
theorem stepKeepsTheInvariants : Obligations.StepKeepsTheInvariants := fun _ _ => Inv.step

theorem inv_resetWith (font : Font) : Inv (State.resetWith font) :=
  ⟨Nat.zero_le _, by rw [State.resetWith_pc]; decide, fun _ hj => absurd hj (Nat.not_lt_zero _),
    Memory.wf_reset font⟩

theorem Inv.operate (hs : Inv s) (op : Op) : Inv (operate op s).state := by
  cases op with
  | reset => exact inv_resetWith s.font
  | load bytes =>
    refine endWith_state _ _ hs fun t ht => ?_
    obtain ⟨hlen, rfl⟩ := load_eq_next.1 ht
    exact hs.storeBytes (by omega)
  | step rnd => exact endWith_state _ _ hs fun t => (hs.withRnd rnd).step
  | setKeys keys => exact hs.setKeys keys
  | clearRedraw => exact hs.clearRedraw

/-- Settles O20, by induction on how the state was reached. -/
theorem reachableStatesMeetTheInvariants : Obligations.ReachableStatesMeetTheInvariants := by
  intro s h
  induction h with
  | reset font => exact inv_resetWith font
  | operate op _ ih => exact ih.operate op

/-- Settles O18. -/
theorem resetMeetsTheInvariants : Obligations.ResetMeetsTheInvariants :=
  fun font => ⟨inv_resetWith font, fun hblocked => nomatch hblocked⟩

end Sys2Proof.Machine
end

section
/-! The next instruction: when it stays the same from one state to another, what `blockedOnKey` says of it
(rules R23, R67), and the idle loops (rule R150). -/

namespace Sys2Proof.Machine

theorem wordAtPc_congr {s t : State} (hpc : t.pc = s.pc) (hmem : ∀ a, t.readByte a = s.readByte a) :
    wordAtPc t = wordAtPc s := by
  simp only [wordAtPc, hpc, hmem]

theorem AboutToRun.congr {i : Instr} {s t : State} (h : AboutToRun i s) (hpc : t.pc = s.pc)
    (hmem : ∀ a, t.readByte a = s.readByte a) : AboutToRun i t := by
  obtain ⟨hf, hd⟩ := h
  refine ⟨?fetch, (wordAtPc_congr hpc hmem).symm ▸ hd⟩
  case fetch => rwa [Fetchable, hpc]

theorem step_of_aboutToRun {i : Instr} {s u : State} (h : AboutToRun i s) (he : exec i s = .next u) :
    step s = .next u.endStep :=
  step_of_decoded_next h.1 h.2 he

/-! ## The blocked flag -/

theorem blockedInv_iff {s : State} :
    BlockedInv s ↔ (s.blockedOnKey = true → ∃ x, AboutToRun (.ldVxK x) s) := by
  simp only [BlockedInv, AboutToRun, exists_and_left]

theorem blockedOnKey_mem_writes {i : Instr} : Part.blockedOnKey ∈ writes i ↔ ∃ x, i = .ldVxK x := by
  cases i <;> simp [writes]

/-- Only an `FX0A` with no key pressed sets the flag, and it stays where it is; any other instruction
leaves the flag alone, and a blocked state is about to run no other instruction. -/
theorem BlockedInv.step {s t : State} (hs : BlockedInv s) (h : step s = .next t) : BlockedInv t := by
  obtain ⟨i, u, hf, hd, hu, rfl⟩ := step_eq_next.1 h
  rw [blockedInv_iff] at hs ⊢
  intro (hblocked : u.blockedOnKey = true)
  by_cases hi : ∃ x, i = .ldVxK x
  · obtain ⟨x, rfl⟩ := hi
    obtain ⟨-, rfl⟩ | ⟨c, -, rfl⟩ := exec_ldVxK_eq_next.1 hu
    · exact ⟨x, AboutToRun.congr ⟨hf, hd⟩ rfl fun _ => rfl⟩
    · cases hblocked
  · have hsame : u.blockedOnKey = s.blockedOnKey :=
      sameExcept_writes_of_exec hu .blockedOnKey (mt blockedOnKey_mem_writes.1 hi)
    obtain ⟨x, -, hd'⟩ := hs (hsame ▸ hblocked)
    rw [hd] at hd'
    cases hd'
    exact absurd ⟨x, rfl⟩ hi

/-- Settles O21. The host's writes touch neither the flag, nor `pc`, nor memory. -/
theorem blockedFlagMeansPcIsAtFX0A : Obligations.BlockedFlagMeansPcIsAtFX0A :=
  ⟨fun _ _ => BlockedInv.step, fun _ _ h => h, fun _ h => h⟩

/-! ## Idle loops -/

theorem lowestKey_of_no_key {s : State} (h : ¬SomeKeyPressed s) : lowestKey s.k = none :=
  lowestKey_eq_none.2 fun c hc => Bool.eq_false_iff.2 fun hk => h ⟨c, hc, hk⟩

/-- A loop invariant under which every `STEP` completes, whatever byte is handed over, makes every run
safe. -/
theorem safeFor_of_loop {P : State → Prop}
    (hloop : ∀ s, P s → ∀ rnd, ∃ t, step (s.withRnd rnd) = .next t ∧ P t) :
    ∀ n s, P s → SafeFor n s := by
  intro n
  induction n with
  | zero => exact fun _ _ => trivial
  | succ n ih =>
    intro s hs rnd
    obtain ⟨t, ht, hP⟩ := hloop s hs rnd
    exact ⟨t, ht, ih t hP⟩

theorem immAddress_toNat (w : Word) : immAddress w.toNat = w := BitVec.eq_of_toNat_eq (by simp [immAddress])

/-- A jump to its own address leaves `pc` and memory as they were. -/
theorem selfJump_loops (s : State) (h : AboutToRun (.jp s.pc.toNat) s) (rnd : Byte) :
    ∃ t, step (s.withRnd rnd) = .next t ∧ AboutToRun (.jp t.pc.toNat) t := by
  have ha : AboutToRun (.jp s.pc.toNat) (s.withRnd rnd) := h
  have hpc : ((s.withRnd rnd).setPc (immAddress s.pc.toNat)).endStep.pc = s.pc := immAddress_toNat s.pc
  refine ⟨_, step_of_aboutToRun ha (exec_jp _ _), ?again⟩
  case again =>
    rw [hpc]
    exact h.congr hpc fun _ => rfl

/-- `FX0A` with no key pressed leaves `pc`, memory and the keys as they were. -/
theorem keyWait_loops (s : State) (h : (∃ x, AboutToRun (.ldVxK x) s) ∧ ¬SomeKeyPressed s) (rnd : Byte) :
    ∃ t, step (s.withRnd rnd) = .next t ∧ (∃ x, AboutToRun (.ldVxK x) t) ∧ ¬SomeKeyPressed t := by
  obtain ⟨⟨x, ha⟩, hkey⟩ := h
  have ha' : AboutToRun (.ldVxK x) (s.withRnd rnd) := ha
  have he := exec_ldVxK_none (s := s.withRnd rnd) x (lowestKey_of_no_key hkey)
  exact ⟨_, step_of_aboutToRun ha' he, ⟨x, ha.congr rfl fun _ => rfl⟩, hkey⟩

/-- Settles O22: being about to run the idle instruction is the loop invariant. -/
theorem idleLoopsNeverFault : Obligations.IdleLoopsNeverFault :=
  fun n s => ⟨safeFor_of_loop selfJump_loops n s,
    fun hx hkey => safeFor_of_loop keyWait_loops n s ⟨hx, hkey⟩⟩

end Sys2Proof.Machine
end

section
/-! Noninterference: what an instruction does not read does not reach its result (rules R21, R68, R82). -/

namespace Sys2Proof.Machine

/-- `s` with other inputs: a key table, and a byte handed over or none. -/
def State.withInputs (s : State) (keys : BitVec 16) (rnd : Option Byte) : State :=
  { s with k := keys, rndInput := rnd }

/-- The instructions that read the key table. -/
def readsKeys : Instr → Bool
  | .skp _ | .sknp _ | .ldVxK _ => true
  | _ => false

/-- The instruction that reads the random byte. -/
def readsRnd : Instr → Bool
  | .rnd _ _ => true
  | _ => false

/-- An instruction carries inputs it does not read through to its next state. -/
theorem exec_withInputs {i : Instr} {s t : State} {keys : BitVec 16} {rnd : Option Byte}
    (hkeys : readsKeys i = false ∨ keys = s.k) (hrnd : readsRnd i = false ∨ rnd = s.rndInput)
    (h : exec i s = .next t) : exec i (s.withInputs keys rnd) = .next (t.withInputs keys rnd) := by
  cases i with
  | rnd x nn =>
    obtain rfl : rnd = s.rndInput := hrnd.resolve_left nofun
    cases h
    rfl
  | skp x | sknp x =>
    obtain rfl : keys = s.k := hkeys.resolve_left nofun
    cases h
    rfl
  | ldVxK x =>
    obtain rfl : keys = s.k := hkeys.resolve_left nofun
    obtain ⟨hkey, rfl⟩ | ⟨c, hkey, rfl⟩ := exec_ldVxK_eq_next.1 h
    · exact exec_ldVxK_none (s := s.withInputs s.k rnd) x hkey
    · exact exec_ldVxK_some (s := s.withInputs s.k rnd) x hkey
  | ret =>
    obtain ⟨hsp, rfl⟩ := exec_ret_eq_next.1 h
    exact exec_ret_eq_next.2 ⟨hsp, rfl⟩
  | call nnn =>
    obtain ⟨hsp, rfl⟩ := exec_call_eq_next.1 h
    exact exec_call_eq_next.2 ⟨hsp, rfl⟩
  | drw x y n =>
    obtain ⟨hfit, rfl⟩ := exec_drw_eq_next.1 h
    exact exec_drw_eq_next.2 ⟨hfit, rfl⟩
  | ldB x =>
    obtain ⟨hfit, rfl⟩ := exec_ldB_eq_next.1 h
    exact exec_ldB_eq_next.2 ⟨hfit, rfl⟩
  | ldMemVx x =>
    obtain ⟨hfit, rfl⟩ := exec_ldMemVx_eq_next.1 h
    exact exec_ldMemVx_eq_next.2 ⟨hfit, rfl⟩
  | ldVxMem x =>
    obtain ⟨hfit, rfl⟩ := exec_ldVxMem_eq_next.1 h
    exact exec_ldVxMem_eq_next.2 ⟨hfit, rfl⟩
  | _ => cases h; rfl

theorem readsKeys_eq_false {i : Instr} (hskp : ∀ x, i ≠ .skp x) (hsknp : ∀ x, i ≠ .sknp x)
    (hldVxK : ∀ x, i ≠ .ldVxK x) : readsKeys i = false := by
  cases i with
  | skp x => exact absurd rfl (hskp x)
  | sknp x => exact absurd rfl (hsknp x)
  | ldVxK x => exact absurd rfl (hldVxK x)
  | _ => rfl

theorem readsRnd_eq_false {i : Instr} (h : ∀ x nn, i ≠ .rnd x nn) : readsRnd i = false := by
  cases i with
  | rnd x nn => exact absurd rfl (h x nn)
  | _ => rfl

/-! ## No instruction writes its inputs -/

theorem k_not_mem_writes (i : Instr) : Part.k ∉ writes i := by
  cases i <;> simp [writes]

theorem rnd_not_mem_writes (i : Instr) : Part.rnd ∉ writes i := by
  cases i <;> simp [writes]

theorem k_of_exec {i : Instr} {s t : State} (h : exec i s = .next t) : t.k = s.k :=
  sameExcept_writes_of_exec h .k (k_not_mem_writes i)

theorem rndInput_of_exec {i : Instr} {s t : State} (h : exec i s = .next t) : t.rndInput = s.rndInput :=
  (sameExcept_writes_of_exec h .rnd (rnd_not_mem_writes i)).1

theorem State.withInputs_rndInput (s : State) (keys : BitVec 16) :
    s.withInputs keys s.rndInput = s.setKeys keys := rfl

/-! ## The statements -/

/-- Settles O15: an instruction that does not read the key table carries any key table through. -/
theorem keysReachOnlyTheKeyInstructions : Obligations.KeysReachOnlyTheKeyInstructions := by
  intro s t i keys hskp hsknp hldVxK h
  have hcomm := exec_withInputs (keys := keys) (.inl (readsKeys_eq_false hskp hsknp hldVxK)) (.inr rfl) h
  rwa [State.withInputs_rndInput, ← rndInput_of_exec h, State.withInputs_rndInput] at hcomm

/-- Settles O14. Where the `STEP` completes, the byte is carried through and dropped at its end; an error
is not read off it. -/
theorem randomByteReachesOnlyCXNN : Obligations.RandomByteReachesOnlyCXNN := by
  intro s i b b' ha hi
  rcases step_cases (s.withRnd b) with ⟨-, t, ht⟩ | ⟨kind, hkind, hstep⟩
  · obtain ⟨u, hu, rfl⟩ := exec_of_step (s := s.withRnd b) (i := i) ha ht
    have hu' : exec i (s.withRnd b') = .next (u.withInputs s.k (some b')) :=
      exec_withInputs (s := s.withRnd b) (.inr rfl) (.inl (readsRnd_eq_false hi)) hu
    have hk : u.k = s.k := k_of_exec (s := s.withRnd b) hu
    rw [ht, step_of_aboutToRun (s := s.withRnd b') ha hu', ← hk]
    rfl
  · have hsame : stepFault (s.withRnd b') = stepFault (s.withRnd b) :=
      stepFault_congr (fun _ => rfl) rfl rfl rfl
    rw [hstep, (step_eq_fault_iff _ kind).2 (hsame.trans hkind)]

end Sys2Proof.Machine
end

section
/-! `FONT` and the list memory is held in reach a `STEP` only through the bytes memory reads as (rule
R141). -/

namespace Sys2Proof.Machine

/-- `s` with memory held as other cells over another font. -/
def State.withStore (s : State) (font : Font) (mem : Memory) : State := { s with font := font, mem := mem }

/-- The cells `mem` over `font` read as the memory of `s` does. -/
def ReadsAs (font : Font) (mem : Memory) (s : State) : Prop := ∀ a, Memory.read font mem a = s.readByte a

theorem stack_ext {s t : State} (h : ∀ j : Fin 16, t.stack[j] = s.stack[j]) : t.stack = s.stack :=
  Vector.ext fun j hj => h ⟨j, hj⟩

theorem fb_ext {s t : State} (h : ∀ x y, t.fb.pixel x y = s.fb.pixel x y) : t.fb = s.fb :=
  Vector.ext fun y hy => BitVec.eq_of_getLsbD_eq fun x hx => h ⟨x, hx⟩ ⟨y, hy⟩

/-- States that differ in nothing but the font, reads compared, differ in nothing but how memory is held. -/
theorem eq_withStore_of_sameExcept_font {s t : State} (h : SameExcept [.font] s t) :
    t = s.withStore t.font t.mem := by
  have hpart : ∀ p, p ≠ .font → SamePart s t p := fun p hp => h p (by simpa using hp)
  have hv := State.ext_v (hpart .v nofun)
  have hstack := stack_ext (hpart .stack nofun)
  have hfb := fb_ext (hpart .fb nofun)
  obtain ⟨hrnd, hdraws⟩ := hpart .rnd nofun
  have hi : t.i = s.i := hpart .i nofun
  have hpc : t.pc = s.pc := hpart .pc nofun
  have hsp : t.sp = s.sp := hpart .sp nofun
  have hdt : t.dt = s.dt := hpart .dt nofun
  have hst : t.st = s.st := hpart .st nofun
  have hk : t.k = s.k := hpart .k nofun
  have hredraw : t.needsRedraw = s.needsRedraw := hpart .needsRedraw nofun
  have hblocked : t.blockedOnKey = s.blockedOnKey := hpart .blockedOnKey nofun
  rw [State.withStore, ← hv, ← hstack, ← hfb, ← hrnd, ← hdraws, ← hi, ← hpc, ← hsp, ← hdt, ← hst, ← hk,
    ← hredraw, ← hblocked]

theorem sameExcept_font_withStore {s : State} {font : Font} {mem : Memory} (h : ReadsAs font mem s) :
    SameExcept [.font] s (s.withStore font mem) := by
  intro p hp
  cases p
  case mem => exact h
  case font => exact absurd (by simp) hp
  all_goals simp [SamePart, State.withStore, State.getV]

theorem State.drawnPixels_withStore {s : State} {font : Font} {mem : Memory} (h : ReadsAs font mem s)
    (x y : RegNum) (n : Nat) : (s.withStore font mem).drawnPixels x y n = s.drawnPixels x y n := by
  have hread : ∀ a, (s.withStore font mem).readByte a = s.readByte a := h
  simp only [State.drawnPixels, State.spritePixels, hread]
  rfl

theorem ReadsAs.writeBytes {s : State} {font : Font} {mem : Memory} (h : ReadsAs font mem s) (a : Nat)
    (bs : List Byte) : ReadsAs font (Memory.writeBytes font mem a bs) (s.storeBytes a bs) := by
  intro c
  rw [Memory.read_writeBytes, State.readByte_storeBytes, h c]

/-- An instruction makes the same next state over another store that reads alike. -/
theorem exec_withStore {i : Instr} {s t : State} {font : Font} {mem : Memory} (hread : ReadsAs font mem s)
    (h : exec i s = .next t) :
    ∃ mem', exec i (s.withStore font mem) = .next (t.withStore font mem') ∧ ReadsAs font mem' t := by
  cases i with
  | ret =>
    obtain ⟨hsp, rfl⟩ := exec_ret_eq_next.1 h
    exact ⟨mem, exec_ret_eq_next.2 ⟨hsp, rfl⟩, hread⟩
  | call nnn =>
    obtain ⟨hsp, rfl⟩ := exec_call_eq_next.1 h
    exact ⟨mem, exec_call_eq_next.2 ⟨hsp, rfl⟩, hread⟩
  | drw x y n =>
    obtain ⟨hfit, rfl⟩ := exec_drw_eq_next.1 h
    refine ⟨mem, exec_drw_eq_next.2 ⟨hfit, ?_⟩, hread⟩
    rw [State.drawn, State.drawn, State.drawnPixels_withStore hread]
    rfl
  | ldB x =>
    obtain ⟨hfit, rfl⟩ := exec_ldB_eq_next.1 h
    exact ⟨_, exec_ldB_eq_next.2 ⟨hfit, rfl⟩, hread.writeBytes s.i.toNat (decimalDigits (s.getV x))⟩
  | ldMemVx x =>
    obtain ⟨hfit, rfl⟩ := exec_ldMemVx_eq_next.1 h
    exact ⟨_, exec_ldMemVx_eq_next.2 ⟨hfit, rfl⟩, hread.writeBytes s.i.toNat (s.regsUpTo x)⟩
  | ldVxMem x =>
    obtain ⟨hfit, rfl⟩ := exec_ldVxMem_eq_next.1 h
    have hread' : ∀ a, (s.withStore font mem).readByte a = s.readByte a := hread
    refine ⟨mem, exec_ldVxMem_eq_next.2 ⟨hfit, ?_⟩, hread⟩
    simp only [hread']
    rfl
  | ldVxK x =>
    obtain ⟨hkey, rfl⟩ | ⟨c, hkey, rfl⟩ := exec_ldVxK_eq_next.1 h
    · exact ⟨mem, exec_ldVxK_none (s := s.withStore font mem) x hkey, hread⟩
    · exact ⟨mem, exec_ldVxK_some (s := s.withStore font mem) x hkey, hread⟩
  | _ => cases h; exact ⟨mem, rfl, hread⟩

/-- Settles O59: a completed `STEP` is carried over to the other store, and an error is read off memory's
bytes only. -/
theorem fontReachesAProgramOnlyThroughMemory : Obligations.FontReachesAProgramOnlyThroughMemory := by
  intro s s' hsame
  have hread : ReadsAs s'.font s'.mem s := hsame .mem (by simp)
  rw [eq_withStore_of_sameExcept_font hsame]
  refine ⟨fun t ht => ?completes, fun kind hkind => ?faults⟩
  case completes =>
    obtain ⟨i, u, hf, hd, hu, rfl⟩ := step_eq_next.1 ht
    obtain ⟨mem', hu', hread'⟩ := exec_withStore hread hu
    have ha : AboutToRun i (s.withStore s'.font s'.mem) := AboutToRun.congr ⟨hf, hd⟩ rfl hread
    exact ⟨_, step_of_aboutToRun ha hu', sameExcept_font_withStore (s := u.endStep) hread'⟩
  case faults =>
    rw [step_eq_fault_iff] at hkind ⊢
    exact (stepFault_congr (t := s.withStore s'.font s'.mem) hread rfl rfl rfl).trans hkind

end Sys2Proof.Machine
end

section
/-! Stored bytes read back: `FX33`, `FX55`, `FX65` (rules R114 to R117), the fetch after a store (rule
R41), and the host's `LOAD` and placed word (rules R142, R143). -/

namespace Sys2Proof.Machine

/-! ## Reading a store back -/

theorem State.readByte_storeBytes_at (s : State) (a : Nat) {bs : List Byte} {j : Nat} (hj : j < bs.length) :
    (s.storeBytes a bs).readByte (a + j) = bs[j] := by
  rw [State.readByte_storeBytes, if_pos (by omega), Nat.add_sub_cancel_left, List.getD_eq_getElem _ _ hj]

theorem sameMemoryOutside_storeBytes (s : State) (a : Nat) (bs : List Byte) :
    SameMemoryOutside a bs.length s (s.storeBytes a bs) :=
  fun _ hc => s.readByte_storeBytes_outside bs hc

theorem sameExcept_storeBytes_advance (s : State) (a : Nat) (bs : List Byte) :
    SameExcept [.mem, .pc] s (s.storeBytes a bs).advance :=
  (sameExcept_storeBytes s a bs).trans (sameExcept_advance _)

theorem State.readByte_storeBytes_regsUpTo (s : State) (a : Nat) {x r : RegNum} (hr : r ≤ x) :
    (s.storeBytes a (s.regsUpTo x)).readByte (a + r.val) = s.getV r := by
  have hlt : r.val < x.val + 1 := Nat.lt_succ_of_le hr
  rw [State.readByte_storeBytes, State.length_regsUpTo, if_pos (by omega), Nat.add_sub_cancel_left,
    State.regsUpTo_getD s x r hr]

/-! ## Register and digit stores -/

/-- A quotient or remainder of a byte is a byte. -/
theorem toNat_digit {d : Nat} {b : Byte} (h : d ≤ b.toNat) : (BitVec.ofNat 8 d).toNat = d := by
  have hb := b.isLt
  rw [BitVec.toNat_ofNat, Nat.mod_eq_of_lt (by omega)]

/-- Settles O54: the three stored bytes read back, each digit at most the byte it comes from. -/
theorem decimalDigitsAreStoredAtI : Obligations.DecimalDigitsAreStoredAtI := by
  intro x s hf hfit
  have hread : ∀ j (hj : j < 3),
      (s.storeBytes s.i.toNat (decimalDigits (s.getV x))).advance.readByte (s.i.toNat + j) =
        (decimalDigits (s.getV x))[j] := fun j hj => s.readByte_storeBytes_at s.i.toNat hj
  refine ⟨_, exec_ldB_eq_next.2 ⟨hfit, rfl⟩, ?hundreds, ?tens, ?ones,
    sameMemoryOutside_storeBytes s _ (decimalDigits (s.getV x)), sameExcept_storeBytes_advance s _ _,
    toNat_pc_add_two hf⟩
  case hundreds =>
    exact (congrArg BitVec.toNat (hread 0 (by decide))).trans (toNat_digit (b := s.getV x) (by omega))
  case tens =>
    exact (congrArg BitVec.toNat (hread 1 (by decide))).trans (toNat_digit (b := s.getV x) (by omega))
  case ones =>
    exact (congrArg BitVec.toNat (hread 2 (by decide))).trans (toNat_digit (b := s.getV x) (by omega))

/-- Settles O55: the stored registers read back. -/
theorem storeRegistersWritesMemoryAtI : Obligations.StoreRegistersWritesMemoryAtI := by
  intro x s hf hfit
  refine ⟨_, exec_ldMemVx_eq_next.2 ⟨hfit, rfl⟩,
    fun r hr => s.readByte_storeBytes_regsUpTo s.i.toNat hr, ?outside,
    sameExcept_storeBytes_advance s _ _, toNat_pc_add_two hf⟩
  case outside => exact s.length_regsUpTo x ▸ sameMemoryOutside_storeBytes s s.i.toNat (s.regsUpTo x)

theorem State.getV_setVUpTo_le (s : State) {x r : RegNum} (f : Nat → Byte) (h : r ≤ x) :
    (s.setVUpTo x f).getV r = f r := by
  rw [State.getV_setVUpTo, if_pos h]

theorem State.getV_setVUpTo_gt (s : State) {x r : RegNum} (f : Nat → Byte) (h : x < r) :
    (s.setVUpTo x f).getV r = s.getV r := by
  rw [State.getV_setVUpTo, if_neg (not_le.2 h)]

/-- Settles O56. -/
theorem loadRegistersReadsMemoryAtI : Obligations.LoadRegistersReadsMemoryAtI := by
  intro x s hf hfit
  refine ⟨_, exec_ldVxMem_eq_next.2 ⟨hfit, rfl⟩, fun r hr => ?loaded, fun r hr => ?kept,
    (sameExcept_setVUpTo s x _).trans (sameExcept_advance _), ?pc⟩
  case loaded => rw [State.advance_getV, s.getV_setVUpTo_le _ hr]
  case kept => rw [State.advance_getV, s.getV_setVUpTo_gt _ hr]
  case pc => rw [Advanced, State.advance_pc, State.setVUpTo_pc, toNat_pc_add_two hf]

/-- Settles O57: what is loaded is what was stored, which reads back as the registers. -/
theorem storeThenLoadRoundTripsRegisters : Obligations.StoreThenLoadRoundTripsRegisters := by
  intro x s t u w hstore hi hkept hload r hr
  obtain ⟨-, rfl⟩ := exec_ldMemVx_eq_next.1 hstore
  obtain ⟨-, rfl⟩ := exec_ldVxMem_eq_next.1 hload
  calc (u.setVUpTo x fun j => u.readByte (u.i.toNat + j)).getV r
      = u.readByte (s.i.toNat + r.val) := by rw [u.getV_setVUpTo_le _ hr, hi]
    _ = (s.storeBytes s.i.toNat (s.regsUpTo x)).readByte (s.i.toNat + r.val) := hkept r hr
    _ = s.getV r := s.readByte_storeBytes_regsUpTo s.i.toNat hr

/-- Settles O17: the two registers lie at the new `pc`, and the end of the `STEP` leaves memory alone. -/
theorem storeIsSeenByTheNextFetch : Obligations.StoreIsSeenByTheNextFetch := by
  intro s x r r' ha hfit hr hr' hle
  refine ⟨_, step_of_aboutToRun ha (exec_ldMemVx_eq_next.2 ⟨hfit, rfl⟩), ?word⟩
  case word =>
    have hpc : (s.pc + 2).toNat = s.i.toNat + r.val := (toNat_pc_add_two ha.1).trans hr.symm
    have hlow := s.readByte_storeBytes_regsUpTo s.i.toNat (x := x) (r := r) (Fin.le_def.2 (by omega))
    have hhigh := s.readByte_storeBytes_regsUpTo s.i.toNat (x := x) (r := r') hle
    rw [wordAtPc, State.endStep_pc, State.advance_pc, State.storeBytes_pc, hpc, State.endStep_readByte,
      State.endStep_readByte, State.advance_readByte, State.advance_readByte, hlow, Nat.add_assoc, ← hr',
      hhigh]

/-! ## The host's writes -/

theorem load_too_large {bytes : List Byte} (s : State) (h : 3584 < bytes.length) :
    load bytes s = .fault .programTooLarge := by
  rw [load, if_neg (Nat.not_le.2 h), raise]

theorem operate_load (bytes : List Byte) (s : State) :
    operate (.load bytes) s = endWith s false (load bytes s) := rfl

/-- Settles O24: `LOAD` is one store at `0x200`, or an error. -/
theorem loadCopiesTheImageOrRefusesIt : Obligations.LoadCopiesTheImageOrRefusesIt := by
  refine fun bytes s => ⟨fun hlen => ⟨s.storeBytes 0x200 bytes, ?ends, ?image,
    sameMemoryOutside_storeBytes s _ _, sameExcept_storeBytes s _ _⟩, fun hlen => ?tooLarge⟩
  case ends => rw [operate_load, load_eq_next.2 ⟨hlen, rfl⟩, endWith]
  case image => exact fun j hj => s.readByte_storeBytes_at 0x200 hj
  case tooLarge => rw [operate_load, load_too_large s hlen, endWith]

theorem withFetchWord_eq {s : State} (w : Word) (hf : Fetchable s) :
    s.withFetchWord 16 w.toNat = s.storeBytes s.pc.toNat (bytesOfWord w) := by
  have hw : BitVec.ofNat 16 (w.toNat % 2 ^ 16) = w := by
    rw [Nat.mod_eq_of_lt w.isLt, BitVec.ofNat_toNat, BitVec.setWidth_eq]
  unfold Fetchable at hf
  rw [State.withFetchWord, hw, State.putWordAtPc, if_pos (inMemory_iff.2 (.inr (by omega)))]

/-- Settles O7: the placing is one store of the word's two bytes. -/
theorem placedWordIsTheNextInstruction : Obligations.PlacedWordIsTheNextInstruction := by
  intro s w hf
  rw [withFetchWord_eq w hf]
  refine ⟨?word, sameMemoryOutside_storeBytes s _ (bytesOfWord w), sameExcept_storeBytes s _ _⟩
  case word =>
    have hhigh : (s.storeBytes s.pc.toNat (bytesOfWord w)).readByte s.pc.toNat = w.extractLsb' 8 8 :=
      s.readByte_storeBytes_at s.pc.toNat (bs := bytesOfWord w) (j := 0) (Nat.zero_lt_two)
    have hlow : (s.storeBytes s.pc.toNat (bytesOfWord w)).readByte (s.pc.toNat + 1) = w.extractLsb' 0 8 :=
      s.readByte_storeBytes_at s.pc.toNat (bs := bytesOfWord w) (j := 1) (Nat.one_lt_two)
    rw [wordAtPc, State.storeBytes_pc, hhigh, hlow, wordOfBytes_split]

/-- Settles O25. -/
theorem hostWritesOnlyKeysAndRedraw : Obligations.HostWritesOnlyKeysAndRedraw :=
  fun s keys => ⟨⟨_, rfl, rfl, sameExcept_setKeys s keys⟩, ⟨_, rfl, rfl, sameExcept_clearRedraw s⟩⟩

end Sys2Proof.Machine
end

section
/-! The flag-writing arithmetic and the masked random byte (rules R70, R77 to R82). -/

namespace Sys2Proof.Machine

/-! ## A flag and a result -/

/-- What an instruction does that writes `flag` to `V[15]`, then `b` to `V[x]`, and advances (rule R70). -/
theorem writesVxAndFlag_of_exec_eq {i : Instr} {s : State} {x : RegNum} {flag b : Byte} (hf : Fetchable s)
    (he : exec i s = .next (s.setFlagThenV flag x b).advance) :
    ∃ t, exec i s = .next t ∧ t.getV x = b ∧ (x ≠ VF → t.getV VF = flag) ∧ OnlyVxAndFlagChanged x s t ∧
      Advanced s t := by
  refine ⟨_, he, ?result, fun hx => ?flag, ⟨fun r hr => ?regs, ?frame⟩, toNat_pc_add_two hf⟩
  case result => rw [State.advance_getV, State.getV_setFlagThenV, if_pos rfl]
  case flag => rw [State.advance_getV, State.getV_setFlagThenV, if_neg (Ne.symm hx), if_pos rfl]
  case regs =>
    obtain ⟨hx, hvf⟩ : r ≠ x ∧ r ≠ VF := by simpa using hr
    rw [State.advance_getV, State.getV_setFlagThenV, if_neg hx, if_neg hvf]
  case frame => exact (sameExcept_setFlagThenV s flag x b).trans (sameExcept_advance _)

/-! ## The flags and results as naturals -/

theorem carryFlag_eq_one {a b : Byte} (h : 255 < a.toNat + b.toNat) : carryFlag a b = 1 :=
  flagOf_eq_one.2 (decide_eq_true h)

theorem carryFlag_eq_zero {a b : Byte} (h : a.toNat + b.toNat ≤ 255) : carryFlag a b = 0 :=
  flagOf_eq_zero.2 (decide_eq_false (Nat.not_lt.2 h))

theorem noBorrowFlag_eq_one {a b : Byte} (h : b.toNat ≤ a.toNat) : noBorrowFlag a b = 1 :=
  flagOf_eq_one.2 (decide_eq_true h)

theorem noBorrowFlag_eq_zero {a b : Byte} (h : a.toNat < b.toNat) : noBorrowFlag a b = 0 :=
  flagOf_eq_zero.2 (decide_eq_false (Nat.not_le.2 h))

/-- The carry is the ninth bit of the sum. -/
theorem carryFlag_sum (a b : Byte) :
    (carryFlag a b).toNat * 256 + (a.toNat + b.toNat) % 256 = a.toNat + b.toNat := by
  have ha := a.isLt
  have hb := b.isLt
  by_cases h : 255 < a.toNat + b.toNat
  · rw [carryFlag_eq_one h]
    change 1 * 256 + (a.toNat + b.toNat) % 256 = _
    omega
  · rw [carryFlag_eq_zero (Nat.le_of_not_lt h)]
    change 0 * 256 + (a.toNat + b.toNat) % 256 = _
    omega

theorem toNat_sub_eq_emod (a b : Byte) : ((a - b).toNat : Int) = (a.toNat - b.toNat : Int) % 256 := by
  have hb := b.isLt
  rw [BitVec.toNat_sub]
  omega

theorem toNat_ushiftRight_one (a : Byte) : (a >>> 1).toNat = a.toNat / 2 := by
  rw [BitVec.toNat_ushiftRight, Nat.shiftRight_eq_div_pow, Nat.pow_one]

theorem toNat_shiftLeft_one (a : Byte) : (a <<< 1).toNat = a.toNat * 2 % 256 := by
  rw [BitVec.toNat_shiftLeft, Nat.shiftLeft_eq, Nat.pow_one]

theorem toNat_lowBitFlag (a : Byte) : (lowBitFlag a).toNat = a.toNat % 2 :=
  (BitVec.toNat_and ..).trans (Nat.and_one_is_mod a.toNat)

theorem toNat_highBitFlag (a : Byte) : (highBitFlag a).toNat = a.toNat / 128 := by
  have ha := a.isLt
  calc (highBitFlag a).toNat
      = (a.toNat &&& 0x80) >>> 7 := by rw [highBitFlag, BitVec.toNat_ushiftRight, BitVec.toNat_and]; rfl
    _ = a.toNat >>> 7 % 2 := by rw [Nat.shiftRight_and_distrib]; exact Nat.and_one_is_mod _
    _ = a.toNat / 128 := by rw [Nat.shiftRight_eq_div_pow]; omega

/-! ## The statements -/

/-- Settles O30: the carry and the wrapped sum make the exact sum. -/
theorem addRegistersCarriesIntoVF : Obligations.AddRegistersCarriesIntoVF := by
  intro x y s hf
  obtain ⟨t, he, hval, hflag, honly, hadv⟩ := writesVxAndFlag_of_exec_eq hf (exec_addReg x y s)
  have hsum : (t.getV x).toNat = ((s.getV x).toNat + (s.getV y).toNat) % 256 := by
    rw [hval, BitVec.toNat_add]
  refine ⟨t, he, hsum, fun hx h => ?carry, fun hx h => ?noCarry, fun hx => ?exact, honly, hadv⟩
  case carry => rw [hflag hx, carryFlag_eq_one h]
  case noCarry => rw [hflag hx, carryFlag_eq_zero h]
  case exact => rw [hflag hx, hsum, carryFlag_sum]

/-- What `8XY5` and `8XY7` do: `a` is the minuend and `b` the subtrahend (rules R78, R80). -/
theorem subtracts_of_exec_eq {i : Instr} {s : State} {x : RegNum} {a b : Byte} (hf : Fetchable s)
    (he : exec i s = .next (s.setFlagThenV (noBorrowFlag a b) x (a - b)).advance) :
    ∃ t, exec i s = .next t ∧ ((t.getV x).toNat : Int) = (a.toNat - b.toNat : Int) % 256 ∧
      (x ≠ VF → b.toNat ≤ a.toNat → t.getV VF = 1) ∧ (x ≠ VF → a.toNat < b.toNat → t.getV VF = 0) ∧
      OnlyVxAndFlagChanged x s t ∧ Advanced s t := by
  obtain ⟨t, he, hval, hflag, honly, hadv⟩ := writesVxAndFlag_of_exec_eq hf he
  refine ⟨t, he, ?difference, fun hx h => ?noBorrow, fun hx h => ?borrow, honly, hadv⟩
  case difference => rw [hval, toNat_sub_eq_emod]
  case noBorrow => rw [hflag hx, noBorrowFlag_eq_one h]
  case borrow => rw [hflag hx, noBorrowFlag_eq_zero h]

/-- Settles O31. -/
theorem subtractionsWriteNoBorrowIntoVF : Obligations.SubtractionsWriteNoBorrowIntoVF :=
  fun x y s hf => ⟨subtracts_of_exec_eq hf (exec_sub x y s), subtracts_of_exec_eq hf (exec_subn x y s)⟩

/-- Settles O32. -/
theorem shiftsWriteTheLostBitIntoVF : Obligations.ShiftsWriteTheLostBitIntoVF := by
  refine fun x y s hf => ⟨?right, ?left⟩
  case right =>
    obtain ⟨t, he, hval, hflag, honly, hadv⟩ := writesVxAndFlag_of_exec_eq hf (exec_shr x y s)
    exact ⟨t, he, by rw [hval, toNat_ushiftRight_one], fun hx => by rw [hflag hx, toNat_lowBitFlag],
      honly, hadv⟩
  case left =>
    obtain ⟨t, he, hval, hflag, honly, hadv⟩ := writesVxAndFlag_of_exec_eq hf (exec_shl x y s)
    exact ⟨t, he, by rw [hval, toNat_shiftLeft_one], fun hx => by rw [hflag hx, toNat_highBitFlag],
      honly, hadv⟩

theorem State.withRnd_rnd (s : State) (b : Byte) : (s.withRnd b).rnd = b := rfl

/-- Settles O33. -/
theorem randomWritesMaskedByte : Obligations.RandomWritesMaskedByte := by
  refine fun x nn s hf => ⟨?free, fun b => ⟨_, exec_rnd x nn _, ?handedOver⟩⟩
  case free =>
    obtain ⟨t, he, hval, honly, hadv⟩ := writesVx_of_exec_eq hf (exec_rnd x nn s)
    exact ⟨t, he, ⟨s.rnd, hval⟩, honly, hadv⟩
  case handedOver => rw [State.advance_getV, State.getV_setV_same, State.withRnd_rnd]

end Sys2Proof.Machine
end

section
/-! Control flow through a register, the stack or a comparison (rules R85 to R93). -/

namespace Sys2Proof.Machine

/-- Settles O35. -/
theorem jumpWithOffsetAddsV0 : Obligations.JumpWithOffsetAddsV0 := fun nnn s hwf =>
  ⟨_, exec_jpV0 nnn s, toNat_jumpTable _ (of_decide_eq_true hwf), sameExcept_setPc s _⟩

/-- Settles O40. -/
theorem registerSkipsCompareVxVy : Obligations.RegisterSkipsCompareVxVy :=
  ⟨rowDecodes_seReg, rowDecodes_sneReg, fun x y s hf =>
    ⟨skips_of_exec_eq hf (exec_seReg x y s) decide_eq_true_iff,
      skips_of_exec_eq hf (exec_sneReg x y s) decide_eq_true_iff⟩⟩

/-! ## The call stack -/

theorem State.pushed_stack_top (s : State) (w : Word) (h : s.sp.val < 16) :
    (s.pushed w h).stack[s.sp.val] = w :=
  Vector.getElem_set_self h

theorem State.pushed_stack_ne (s : State) (w : Word) (h : s.sp.val < 16) {j : Fin 16}
    (hj : j.val ≠ s.sp.val) : (s.pushed w h).stack[j] = s.stack[j] :=
  Vector.getElem_set_ne h j.isLt (Ne.symm hj)

/-- Settles O36. -/
theorem callPushesReturnAddress : Obligations.CallPushesReturnAddress := by
  refine fun nnn s hwf hf => ⟨fun hsp => ⟨_, exec_call_eq_next.2 ⟨hsp, rfl⟩, ?slot, rfl,
    toNat_immAddress (of_decide_eq_true hwf), fun j hj => s.pushed_stack_ne _ hsp hj,
    (sameExcept_pushed s _ hsp).trans (sameExcept_setPc _ _)⟩, exec_call_full nnn⟩
  case slot => exact (congrArg BitVec.toNat (s.pushed_stack_top _ hsp)).trans (toNat_pc_add_two hf)

/-- Settles O37. -/
theorem returnPopsIntoPc : Obligations.ReturnPopsIntoPc := fun s =>
  ⟨fun hsp => ⟨_, exec_ret_eq_next.2 ⟨hsp, rfl⟩, rfl, rfl, sameExcept_popped s hsp⟩, exec_ret_empty⟩

/-- What the `STEP` of a completing `2NNN` leaves. -/
def State.afterCall (s : State) (nnn : Nat) (h : s.sp.val < 16) : State :=
  ((s.pushed (s.pc + 2) h).setPc (immAddress nnn)).endStep

theorem step_call {s : State} {nnn : Nat} (ha : AboutToRun (.call nnn) s) (h : s.sp.val < 16) :
    step s = .next (s.afterCall nnn h) :=
  step_of_aboutToRun ha (exec_call_eq_next.2 ⟨h, rfl⟩)

theorem sameExcept_afterCall (s : State) (nnn : Nat) (h : s.sp.val < 16) :
    SameExcept [.stack, .sp, .pc, .dt, .st, .rnd] s (s.afterCall nnn h) :=
  ((sameExcept_pushed s _ h).trans (sameExcept_setPc _ _)).trans (sameExcept_endStep _)

/-- The instruction at its target runs after a call. -/
theorem aboutToRun_afterCall {s : State} {nnn : Nat} {i : Instr} (h : s.sp.val < 16) (hnnn : nnn ≤ 0xFFE)
    (hd : decodeWord (wordOfBytes (s.readByte nnn) (s.readByte (nnn + 1))) = .ok i) :
    AboutToRun i (s.afterCall nnn h) := by
  have hpc : (s.afterCall nnn h).pc.toNat = nnn := toNat_immAddress (by omega)
  refine ⟨?fetch, ?decode⟩
  case fetch => rwa [Fetchable, hpc]
  case decode =>
    rw [wordAtPc, hpc]
    exact hd

/-- A return after a call pops the entry the call pushed. -/
theorem State.popped_afterCall_pc (s : State) (nnn : Nat) (h : s.sp.val < 16) :
    ((s.afterCall nnn h).popped (Nat.succ_pos _)).pc = s.pc + 2 :=
  s.pushed_stack_top _ h

theorem State.popped_afterCall_sp (s : State) (nnn : Nat) (h : s.sp.val < 16) :
    ((s.afterCall nnn h).popped (Nat.succ_pos _)).sp = s.sp := rfl

/-- Settles O38: the call's `STEP` leaves the return about to run, with the pushed entry on top. -/
theorem callThenReturnComesBack : Obligations.CallThenReturnComesBack := by
  intro s nnn ha hsp hnnn hret
  have hrun : AboutToRun .ret (s.afterCall nnn hsp) :=
    aboutToRun_afterCall hsp hnnn (hret ▸ decodeWord_retWord)
  have hframe : SameExcept [.stack, .sp, .pc, .dt, .st, .rnd] s
      ((s.afterCall nnn hsp).popped (Nat.succ_pos _)).endStep :=
    ((sameExcept_afterCall s nnn hsp).trans
      ((sameExcept_popped _ _).trans (sameExcept_endStep _))).mono (by simp)
  refine ⟨_, _, step_call ha hsp, step_of_aboutToRun hrun (exec_ret_eq_next.2 ⟨Nat.succ_pos _, rfl⟩), ?pc,
    s.popped_afterCall_sp nnn hsp, fun j hj => s.pushed_stack_ne _ hsp hj, fun p hp => ?frame⟩
  case pc => rw [State.endStep_pc, State.popped_afterCall_pc, toNat_pc_add_two ha.1]
  case frame =>
    by_cases hpsp : p = .sp
    · subst hpsp
      exact s.popped_afterCall_sp nnn hsp
    · exact hframe p (by simp_all)

end Sys2Proof.Machine
end

section
/-! The keypad and the timers (rules R100 to R106). -/

namespace Sys2Proof.Machine

theorem pressed_iff {k : BitVec 16} {b : Byte} :
    pressed k b = true ↔ b.toNat ≤ 15 ∧ k.getLsbD b.toNat = true := by
  rw [pressed, Bool.and_eq_true, decide_eq_true_iff]

/-- Settles O45. -/
theorem keySkipsAreComplements : Obligations.KeySkipsAreComplements := by
  refine fun x s hf => ⟨skips_of_exec_eq hf (exec_skp x s) pressed_iff,
    skips_of_exec_eq hf (exec_sknp x s) ?notPressed⟩
  case notPressed => rw [← pressed_iff, Bool.not_eq_true', Bool.not_eq_true]

theorem lowestKey_of_key {s : State} (h : SomeKeyPressed s) : ∃ c, lowestKey s.k = some c := by
  obtain ⟨d, hd, hbit⟩ := h
  refine Option.ne_none_iff_exists'.1 fun hnone => ?_
  rw [lowestKey_eq_none.1 hnone d hd] at hbit
  cases hbit

/-- Settles O49: the lowest key code is below 16, so the byte holds it. -/
theorem keyWaitStoresTheLowestKey : Obligations.KeyWaitStoresTheLowestKey := by
  intro x s hf hkey
  obtain ⟨c, hc⟩ := lowestKey_of_key hkey
  obtain ⟨hlt, hbit, hlow⟩ := lowestKey_eq_some.1 hc
  have hval : ((((s.setV x (BitVec.ofNat 8 c)).setBlocked false).advance).getV x).toNat = c := by
    rw [State.advance_getV, State.setBlocked_getV, State.getV_setV_same, BitVec.toNat_ofNat,
      Nat.mod_eq_of_lt (by omega)]
  refine ⟨_, exec_ldVxK_some x hc, ?code, ?isPressed, ?lowest, rfl, sameRegsExcept_setV_advance s x _,
    ((sameExcept_setV s x _).trans (sameExcept_setBlocked _ false)).trans (sameExcept_advance _),
    toNat_pc_add_two hf⟩
  case code => omega
  case isPressed => rwa [hval]
  case lowest => rwa [hval]

/-- Settles O50. -/
theorem keyWaitBlocksWithoutKey : Obligations.KeyWaitBlocksWithoutKey := by
  intro x s hkey
  have he := exec_ldVxK_none x (lowestKey_of_no_key hkey)
  refine ⟨⟨_, he, rfl, sameExcept_setBlocked s true⟩, fun ha => ⟨_, step_of_aboutToRun ha he, rfl, rfl,
    ha.congr rfl fun _ => rfl, countDown_toNat s.dt, countDown_toNat s.st,
    (sameExcept_setBlocked s true).trans (sameExcept_endStep _)⟩⟩

/-- Settles O46. -/
theorem readDelayTimerBeforeItsDecrement : Obligations.ReadDelayTimerBeforeItsDecrement := by
  refine ⟨fun w hrow => decodeWord_of_rowF hrow (by decide), fun x s hf =>
    ⟨writesVx_of_exec_eq hf (exec_ldVxDt x s), fun ha =>
      ⟨_, step_of_aboutToRun ha (exec_ldVxDt x s), ?value, countDown_toNat s.dt⟩⟩⟩
  case value => rw [State.endStep_getV, State.advance_getV, State.getV_setV_same]

/-- Settles O47. -/
theorem setDelayTimerWritesDT : Obligations.SetDelayTimerWritesDT :=
  ⟨fun _ hrow => decodeWord_of_rowF hrow (by decide), fun x s hf =>
    ⟨⟨_, exec_ldDtVx x s, rfl, (sameExcept_setDt s _).trans (sameExcept_advance _), toNat_pc_add_two hf⟩,
      fun ha => ⟨_, step_of_aboutToRun ha (exec_ldDtVx x s), countDown_toNat (s.getV x)⟩⟩⟩

/-- Settles O48. -/
theorem setSoundTimerWritesST : Obligations.SetSoundTimerWritesST := fun x s hf =>
  ⟨⟨_, exec_ldStVx x s, rfl, (sameExcept_setSt s _).trans (sameExcept_advance _), toNat_pc_add_two hf⟩,
    fun ha => ⟨_, step_of_aboutToRun ha (exec_ldStVx x s), countDown_toNat (s.getV x)⟩⟩

end Sys2Proof.Machine
end

section
/-! Drawing a sprite (rules R95, R97). -/

namespace Sys2Proof.Machine

/-! ## The pixels under a sprite and the collision flag -/

theorem mem_drawnPixels_iff {s : State} {x y : RegNum} {n : Nat} {cx : Fin 64} {cy : Fin 32} :
    (cx, cy) ∈ s.drawnPixels x y n ↔ SpriteCovers s (s.getV x) (s.getV y) n cx cy := by
  rw [State.drawnPixels, State.mem_spritePixels]
  constructor
  · rintro ⟨row, hrow, col, hcol, hbit, hpixel⟩
    obtain ⟨rfl, rfl⟩ := Prod.mk.inj hpixel
    exact ⟨row, col, hrow, hcol, hbit, rfl, rfl⟩
  · rintro ⟨row, col, hrow, hcol, hbit, hx, hy⟩
    exact ⟨row, hrow, col, hcol, hbit, Prod.ext (Fin.ext hx.symm) (Fin.ext hy.symm)⟩

theorem collisionFlag_eq_one {fb : Framebuffer} {ps : List (Fin 64 × Fin 32)} :
    collisionFlag fb ps = 1 ↔ ∃ cx cy, (cx, cy) ∈ ps ∧ fb.pixel cx cy = true :=
  flagOf_eq_one.trans (List.any_eq_true.trans Prod.exists)

theorem collisionFlag_eq_zero {fb : Framebuffer} {ps : List (Fin 64 × Fin 32)} :
    collisionFlag fb ps = 0 ↔ ¬∃ cx cy, (cx, cy) ∈ ps ∧ fb.pixel cx cy = true :=
  flagOf_eq_zero.trans (Bool.eq_false_iff.trans (not_congr (List.any_eq_true.trans Prod.exists)))

theorem spriteCollides_iff {s : State} {x y : RegNum} {n : Nat} :
    SpriteCollides s (s.getV x) (s.getV y) n ↔
      ∃ cx cy, (cx, cy) ∈ s.drawnPixels x y n ∧ s.fb.pixel cx cy = true := by
  simp only [SpriteCollides, mem_drawnPixels_iff]

/-! ## What `DXYN` leaves -/

theorem State.drawn_getV_VF (s : State) (x y : RegNum) (n : Nat) :
    (s.drawn x y n).getV VF = collisionFlag s.fb (s.drawnPixels x y n) := by
  rw [State.drawn, State.advance_getV, State.setFb_getV, State.getV_setV_same]

theorem State.drawn_getV_ne (s : State) (x y : RegNum) (n : Nat) {r : RegNum} (h : r ≠ VF) :
    (s.drawn x y n).getV r = s.getV r := by
  rw [State.drawn, State.advance_getV, State.setFb_getV, s.getV_setV_ne _ h]

theorem State.drawn_pixel (s : State) (x y : RegNum) (n : Nat) (cx : Fin 64) (cy : Fin 32) :
    (s.drawn x y n).fb.pixel cx cy =
      if (cx, cy) ∈ s.drawnPixels x y n then !s.fb.pixel cx cy else s.fb.pixel cx cy :=
  Framebuffer.pixel_toggleAll s.fb _ cx cy

/-- Settles O42: the toggled pixels are those the sprite covers, and the flag says whether one was set. -/
theorem drawXorsSpriteAndReportsCollision : Obligations.DrawXorsSpriteAndReportsCollision := by
  intro x y n s _ hf hfit
  refine ⟨s.drawn x y n, exec_drw_eq_next.2 ⟨by omega, rfl⟩,
    fun cx cy => ⟨fun hcov => ?inverted, fun hcov => ?kept⟩,
    fun hcol => ?collides, fun hcol => ?clear, rfl, fun r hr => ?regs, sameExcept_drawn s x y n,
    toNat_pc_add_two hf⟩
  case inverted => rw [s.drawn_pixel, if_pos (mem_drawnPixels_iff.2 hcov)]
  case kept => rw [s.drawn_pixel, if_neg (mt mem_drawnPixels_iff.1 hcov)]
  case collides => rw [s.drawn_getV_VF, collisionFlag_eq_one.2 (spriteCollides_iff.1 hcol)]
  case clear => rw [s.drawn_getV_VF, collisionFlag_eq_zero.2 (mt spriteCollides_iff.2 hcol)]
  case regs => exact s.drawn_getV_ne x y n (List.ne_of_not_mem_cons hr)

/-! ## Drawing twice -/

/-- Neither the sprite nor its place is changed by drawing it, unless a coordinate is in `V[15]`. -/
theorem State.drawnPixels_drawn (s : State) {x y : RegNum} (n : Nat) (hx : x ≠ VF) (hy : y ≠ VF) :
    (s.drawn x y n).drawnPixels x y n = s.drawnPixels x y n := by
  rw [State.drawnPixels, s.drawn_getV_ne x y n hx, s.drawn_getV_ne x y n hy]
  rfl

/-- Settles O43: both draws toggle the same pixels, so the second finds set exactly those that the first
found unset. -/
theorem drawingTwiceRestoresTheScreen : Obligations.DrawingTwiceRestoresTheScreen := by
  intro x y n s t u hx hy hst htu
  obtain ⟨-, rfl⟩ := exec_drw_eq_next.1 hst
  obtain ⟨-, rfl⟩ := exec_drw_eq_next.1 htu
  refine ⟨fun cx cy => ?restored, ?collision⟩
  case restored =>
    rw [State.drawn_pixel, State.drawnPixels_drawn s n hx hy, State.drawn_pixel]
    split
    · exact Bool.not_not _
    · rfl
  case collision =>
    rw [State.drawn_getV_VF, State.drawnPixels_drawn s n hx hy, collisionFlag_eq_one]
    refine exists_congr fun cx => exists_congr fun cy => ?_
    rw [State.drawn_pixel]
    by_cases hmem : (cx, cy) ∈ s.drawnPixels x y n <;> simp [hmem]

end Sys2Proof.Machine
end
